-- ==== Sys2Proof/Word.lean ====
section
/-! DEFINITION. The machine word, the byte of the host streams, and the register index. -/

namespace Sys2Proof

/-- A Word: "an unsigned 16-bit integer" (00_scope.md R11). Addresses are Words too (20_memory.md R60). -/
abbrev Word := BitVec 16

/-- One byte of a host stream or of an image (10_state.md R47, 20_memory.md R82). -/
abbrev Byte := BitVec 8

/-- The index of a general register, R0 to R7 (10_state.md R31). -/
abbrev Reg := Fin 8

end Sys2Proof
end

