-- ==== Sys2Proof/Syntax.lean ====
section
/-! DEFINITION. The instruction forms: one constructor per row of spec/opcode_table.json. -/

namespace Sys2Proof

/-- The instructions (30_encoding.md R102, R103, R119). The first nineteen constructors are the base rows of the opcode
table, the last eight its alias rows (R121): an alias is a named subset of a base row's words and has a constructor of
its own (assumption log 11). Register fields are register indexes; immediates, offsets, the mask and the vector are the
unextended bit fields of the word. -/
inductive Instr where
  /-- ADD DR, SR1, SR2 (R150, format OPR). -/
  | add (dr sr1 sr2 : Reg)
  /-- ADD DR, SR1, #imm5 (R150, format OPI). -/
  | addImm (dr sr1 : Reg) (imm5 : BitVec 5)
  /-- AND DR, SR1, SR2 (R151, format OPR). -/
  | and (dr sr1 sr2 : Reg)
  /-- AND DR, SR1, #imm5 (R151, format OPI). -/
  | andImm (dr sr1 : Reg) (imm5 : BitVec 5)
  /-- NOT DR, SR (R152). -/
  | not (dr sr : Reg)
  /-- BR with condition mask n z p and PCoffset9 (R170). -/
  | br (mask : BitVec 3) (off9 : BitVec 9)
  /-- JMP BaseR (R171). -/
  | jmp (base : Reg)
  /-- JSR PCoffset11 (R173). -/
  | jsr (off11 : BitVec 11)
  /-- JSRR BaseR (R174). -/
  | jsrr (base : Reg)
  /-- LD DR, PCoffset9 (R191). -/
  | ld (dr : Reg) (off9 : BitVec 9)
  /-- LDI DR, PCoffset9 (R192). -/
  | ldi (dr : Reg) (off9 : BitVec 9)
  /-- LDR DR, BaseR, offset6 (R193). -/
  | ldr (dr base : Reg) (off6 : BitVec 6)
  /-- LEA DR, PCoffset9 (R194). -/
  | lea (dr : Reg) (off9 : BitVec 9)
  /-- ST SR, PCoffset9 (R195). -/
  | st (sr : Reg) (off9 : BitVec 9)
  /-- STI SR, PCoffset9 (R196). -/
  | sti (sr : Reg) (off9 : BitVec 9)
  /-- STR SR, BaseR, offset6 (R197). -/
  | str (sr base : Reg) (off6 : BitVec 6)
  /-- TRAP trapvect8 (R210). -/
  | trap (vector : BitVec 8)
  /-- RTI (R221). -/
  | rti
  /-- RES, the reserved opcode, with its low twelve bits: they change nothing but the word its error record holds
  (R222; assumption log 12). -/
  | res (low12 : BitVec 12)
  /-- RET, the words of JMP R7 (R172). -/
  | ret
  /-- GETC, the words of TRAP x20 (R214). -/
  | getc
  /-- OUT, the words of TRAP x21 (R215). -/
  | out
  /-- PUTS, the words of TRAP x22 (R216). -/
  | puts
  /-- IN, the words of TRAP x23 (R217). -/
  | inp
  /-- PUTSP, the words of TRAP x24 (R218). -/
  | putsp
  /-- HALT, the words of TRAP x25 (R219). -/
  | halt
  /-- NOP, the word 0x0000: BR with mask 000 and offset 0 (R121). -/
  | nop
  deriving DecidableEq, Repr

end Sys2Proof
end

