-- ==== Sys2Proof/WellFormed.lean ====
section
/-! DEFINITION. Which instructions are the decoding of some word: a base row's constructor does not stand for the words
of its alias rows. -/

namespace Sys2Proof

/-- The vectors of the six trap services, GETC 0x20 to HALT 0x25 (30_encoding.md R113). -/
def supportedVector (v : BitVec 8) : Bool := 0x20#8 ≤ v && v ≤ 0x25#8

/-- The words of JMP R7, of a TRAP to a service and of BR with mask 000 and offset 0 have their own names RET, GETC to
HALT and NOP (30_encoding.md R121), so those operands do not stand under the base row's constructor (assumption log 11).
Every other operand is in range by its type. -/
def Instr.wellFormed : Instr → Bool
  | .jmp base => base != 7
  | .trap v => !supportedVector v
  | .br mask off9 => mask != 0 || off9 != 0
  | .add _ _ _ | .addImm _ _ _ | .and _ _ _ | .andImm _ _ _ | .not _ _ | .jsr _ | .jsrr _ | .ld _ _ | .ldi _ _
  | .ldr _ _ _ | .lea _ _ | .st _ _ | .sti _ _ | .str _ _ _ | .rti | .res _ | .ret | .getc | .out | .puts | .inp
  | .putsp | .halt | .nop => true

end Sys2Proof
end

