-- ==== Sys2Proof/Decode.lean ====
section
/-! DEFINITION. The decoder, total on 16-bit words, and the encoder, both from 30_encoding.md R102, R104. -/

namespace Sys2Proof

/-- The sixteen opcodes (30_encoding.md R102). -/
inductive Opcode where
  | br | add | ld | st | jsr | and | ldr | str | rti | not | ldi | sti | jmp | res | lea | trap
  deriving DecidableEq, Repr

/-- The opcode that a 4-bit number names (30_encoding.md R102). Sixteen values, so the last arm is 15. -/
def opcodeOfNat : Nat → Opcode
  | 0 => .br
  | 1 => .add
  | 2 => .ld
  | 3 => .st
  | 4 => .jsr
  | 5 => .and
  | 6 => .ldr
  | 7 => .str
  | 8 => .rti
  | 9 => .not
  | 10 => .ldi
  | 11 => .sti
  | 12 => .jmp
  | 13 => .res
  | 14 => .lea
  | _ => .trap

/-- The opcode of a word is `instr[15:12]` (30_encoding.md R101). -/
def opcodeOf (w : Word) : Opcode := opcodeOfNat (w.extractLsb' 12 4).toNat

/-- The 3-bit register field of `w` whose lowest bit is `lo` (30_encoding.md R104). -/
def regField (w : Word) (lo : Nat) : Reg := ⟨(w.extractLsb' lo 3).toNat, (w.extractLsb' lo 3).isLt⟩

/-- TRAP's vector picks one of the six service names, or TRAP itself (30_encoding.md R113, R121). -/
def decodeTrap (v : BitVec 8) : Instr :=
  if v = 0x20 then .getc
  else if v = 0x21 then .out
  else if v = 0x22 then .puts
  else if v = 0x23 then .inp
  else if v = 0x24 then .putsp
  else if v = 0x25 then .halt
  else .trap v

/-- JMP R7 is named RET (30_encoding.md R121). -/
def decodeJmp (base : Reg) : Instr := if base = 7 then .ret else .jmp base

/-- BR with mask 000 and offset 0 is named NOP (30_encoding.md R121). -/
def decodeBr (mask : BitVec 3) (off9 : BitVec 9) : Instr := if mask = 0 ∧ off9 = 0 then .nop else .br mask off9

/-- The decoder: every word decodes (30_encoding.md R119), by its opcode and then by the mode bit of ADD, AND and JSR
(R105, R109); the bits that R104 marks `u` are not read, but for RES's, which its error record holds (R115, R222). -/
def decode (w : Word) : Instr :=
  match opcodeOf w with
  | .br => decodeBr (w.extractLsb' 9 3) (w.extractLsb' 0 9)
  | .add =>
    if w.getLsbD 5 then .addImm (regField w 9) (regField w 6) (w.extractLsb' 0 5)
    else .add (regField w 9) (regField w 6) (regField w 0)
  | .ld => .ld (regField w 9) (w.extractLsb' 0 9)
  | .st => .st (regField w 9) (w.extractLsb' 0 9)
  | .jsr => if w.getLsbD 11 then .jsr (w.extractLsb' 0 11) else .jsrr (regField w 6)
  | .and =>
    if w.getLsbD 5 then .andImm (regField w 9) (regField w 6) (w.extractLsb' 0 5)
    else .and (regField w 9) (regField w 6) (regField w 0)
  | .ldr => .ldr (regField w 9) (regField w 6) (w.extractLsb' 0 6)
  | .str => .str (regField w 9) (regField w 6) (w.extractLsb' 0 6)
  | .rti => .rti
  | .not => .not (regField w 9) (regField w 6)
  | .ldi => .ldi (regField w 9) (w.extractLsb' 0 9)
  | .sti => .sti (regField w 9) (w.extractLsb' 0 9)
  | .jmp => decodeJmp (regField w 6)
  | .res => .res (w.extractLsb' 0 12)
  | .lea => .lea (regField w 9) (w.extractLsb' 0 9)
  | .trap => decodeTrap (w.extractLsb' 0 8)

/-- The host's probe: the instruction that `decode` reads from a word of `nbits` bits, the bits above them zero. No
instruction is longer than one 16-bit word (30_encoding.md R100). -/
def decodeTableWord (nbits w : Nat) : Option Instr :=
  if nbits ≤ 16 then some (decode (BitVec.ofNat 16 (w % 2 ^ nbits))) else none

/-- A register index as a 3-bit field. -/
def regBits (r : Reg) : BitVec 3 := BitVec.ofNat 3 r.val

/-- The word of an instruction, field by field from the top (30_encoding.md R104), with the bits marked `u` at the values
LC-3 requires, in brackets there. -/
def encode : Instr → Word
  | .add dr sr1 sr2 => 0x1#4 ++ regBits dr ++ regBits sr1 ++ 0#1 ++ 0#2 ++ regBits sr2
  | .addImm dr sr1 imm5 => 0x1#4 ++ regBits dr ++ regBits sr1 ++ 1#1 ++ imm5
  | .and dr sr1 sr2 => 0x5#4 ++ regBits dr ++ regBits sr1 ++ 0#1 ++ 0#2 ++ regBits sr2
  | .andImm dr sr1 imm5 => 0x5#4 ++ regBits dr ++ regBits sr1 ++ 1#1 ++ imm5
  | .not dr sr => 0x9#4 ++ regBits dr ++ regBits sr ++ 0b111111#6
  | .br mask off9 => 0x0#4 ++ mask ++ off9
  | .jmp base => 0xC#4 ++ 0#3 ++ regBits base ++ 0#6
  | .jsr off11 => 0x4#4 ++ 1#1 ++ off11
  | .jsrr base => 0x4#4 ++ 0#1 ++ 0#2 ++ regBits base ++ 0#6
  | .ld dr off9 => 0x2#4 ++ regBits dr ++ off9
  | .ldi dr off9 => 0xA#4 ++ regBits dr ++ off9
  | .ldr dr base off6 => 0x6#4 ++ regBits dr ++ regBits base ++ off6
  | .lea dr off9 => 0xE#4 ++ regBits dr ++ off9
  | .st sr off9 => 0x3#4 ++ regBits sr ++ off9
  | .sti sr off9 => 0xB#4 ++ regBits sr ++ off9
  | .str sr base off6 => 0x7#4 ++ regBits sr ++ regBits base ++ off6
  | .trap v => 0xF#4 ++ 0#4 ++ v
  | .rti => 0x8#4 ++ 0#12
  | .res low12 => 0xD#4 ++ low12
  | .ret => 0xC#4 ++ 0#3 ++ regBits 7 ++ 0#6
  | .getc => 0xF#4 ++ 0#4 ++ 0x20#8
  | .out => 0xF#4 ++ 0#4 ++ 0x21#8
  | .puts => 0xF#4 ++ 0#4 ++ 0x22#8
  | .inp => 0xF#4 ++ 0#4 ++ 0x23#8
  | .putsp => 0xF#4 ++ 0#4 ++ 0x24#8
  | .halt => 0xF#4 ++ 0#4 ++ 0x25#8
  | .nop => 0x0#4 ++ 0#3 ++ 0#9

/-- The opcode number of an instruction (30_encoding.md R102). -/
def Instr.opcodeNumber : Instr → BitVec 4
  | .br _ _ | .nop => 0x0
  | .add _ _ _ | .addImm _ _ _ => 0x1
  | .ld _ _ => 0x2
  | .st _ _ => 0x3
  | .jsr _ | .jsrr _ => 0x4
  | .and _ _ _ | .andImm _ _ _ => 0x5
  | .ldr _ _ _ => 0x6
  | .str _ _ _ => 0x7
  | .rti => 0x8
  | .not _ _ => 0x9
  | .ldi _ _ => 0xA
  | .sti _ _ => 0xB
  | .jmp _ | .ret => 0xC
  | .res _ => 0xD
  | .lea _ _ => 0xE
  | .trap _ | .getc | .out | .puts | .inp | .putsp | .halt => 0xF

end Sys2Proof
end

