-- ==== Sys2Proof/Config.lean ====
section
/-! DEFINITION. The parameters of 00_scope.md R9 with their defaults, and the types they range over. -/

namespace Sys2Proof

/-- The condition-flag register: one of three mutually exclusive flags, or none before the first flag-updating write when
COND_INIT is NONE (10_state.md R36, R39). -/
inductive Cond where
  | n | z | p | none
  deriving DecidableEq, Repr

/-- A memory-mapped device (20_memory.md R65). The platform has one, the input-status/input-data pair (R66, R73). -/
inductive Device where
  | keyboard
  deriving DecidableEq, Repr

/-- UNSUPPORTED_POLICY: what RES and an unsupported TRAP vector do (92_eei_decisions.md D23). -/
inductive Policy where
  | fatal | ignore
  deriving DecidableEq, Repr

/-- The parameters of the hardware, fixed for a machine (00_scope.md R9, 10_state.md R46). -/
structure Config where
  /-- DEVICE_MAP: the registered addresses; the first entry of an address counts, so one device per address (20_memory.md R66). -/
  devices : List (Word × Device)
  /-- KBSR_ADDR: the input-status cell (20_memory.md R73). -/
  kbsrAddr : Word
  /-- KBDR_ADDR: the input-data cell (20_memory.md R73). -/
  kbdrAddr : Word
  /-- KB_READY: what an activation writes to KBSR when it took a byte (20_memory.md R74). -/
  kbReady : Word
  /-- KB_NOT_READY: what an activation writes to KBSR when none was available (20_memory.md R74). -/
  kbNotReady : Word
  /-- GPR_INIT: R0 to R7 at construction (10_state.md R35). -/
  gprInit : Vector Word 8
  /-- COND_INIT: COND at construction (10_state.md R39). -/
  condInit : Cond
  /-- JSRR_BASE_AFTER_LINK: JSRR writes R7 before it reads BaseR (42_control.md R174). -/
  jsrrBaseAfterLink : Bool
  /-- TRAP_INPUT_SETS_FLAGS: the R0 write of GETC and IN updates COND (44_trap_system.md R213). -/
  trapInputSetsFlags : Bool
  /-- IN_PROMPT: the bytes IN writes before it reads (44_trap_system.md R217). -/
  inPrompt : List Byte
  /-- HALT_MESSAGE: the bytes HALT writes (44_trap_system.md R219). -/
  haltMessage : List Byte
  /-- UNSUPPORTED_POLICY (44_trap_system.md R220, R222). -/
  unsupportedPolicy : Policy
  deriving DecidableEq, Repr

/-- A free value: IN_PROMPT is OPEN, with no default from the source (00_scope.md R9, 92_eei_decisions.md D14; assumption
log 6). It has no body, so nothing can be proved of its bytes. -/
opaque Config.openInPrompt : List Byte

/-- The defaults of 00_scope.md R9 (decisions D5 to D8, D10, D11, D15, D23; assumption log 4, 5, 10, 14, 16, 17, 20). -/
def Config.standard : Config where
  devices := [(0xFE00, .keyboard)]
  kbsrAddr := 0xFE00
  kbdrAddr := 0xFE02
  kbReady := 0x8000
  kbNotReady := 0x0000
  gprInit := Vector.replicate 8 0
  condInit := .z
  jsrrBaseAfterLink := true
  trapInputSetsFlags := true
  inPrompt := Config.openInPrompt
  haltMessage := []
  unsupportedPolicy := .fatal

end Sys2Proof
end

