-- ==== Sys2Proof/Machine/Flags.lean ====
section
/-! DEFINITION. The condition flags: how a written value sets COND and how BR tests it. -/

namespace Sys2Proof.Machine

/-- `setcc(v)`: Z for zero, N when bit 15 is set, P otherwise (10_state.md R37). -/
def setcc (v : Word) : Cond := if v = 0 then .z else if v.getLsbD 15 then .n else .p

/-- COND as the three bits a branch mask is compared with: N 100, Z 010, P 001, none 000 (10_state.md R36, 42_control.md
R170; assumption log 13). -/
def condBits : Cond → BitVec 3
  | .n => 0b100
  | .z => 0b010
  | .p => 0b001
  | .none => 0b000

/-- BR's test, `(mask & c) != 0` (42_control.md R170). -/
def branchTaken (mask : BitVec 3) (c : Cond) : Bool := mask &&& condBits c != 0

end Sys2Proof.Machine
end

