-- ==== Sys2Proof/Machine/State.lean ====
section
/-! DEFINITION. The machine's state as plain data, the reasons a step can stop, and the state right after reset. -/

namespace Sys2Proof.Machine

/-- Memory: the cells that do not hold zero, as (address, word) pairs, addresses strictly rising (20_memory.md R60). The
unit is the 16-bit word: there are no byte addresses (R60, R68; assumption log 1). -/
abbrev Mem := List (Nat × Word)

/-- The error record of a fatal runtime error (60_exceptions.md R251, R252). `addr` is the address `a` of the instruction
that raised it. -/
inductive FatalErr where
  /-- Raised by RES under UNSUPPORTED_POLICY = FATAL (44_trap_system.md R222). -/
  | unsupportedOpcode (opcode : BitVec 4) (instr : Word) (addr : Word)
  /-- Raised by TRAP with a vector outside 0x20 to 0x25 under UNSUPPORTED_POLICY = FATAL (44_trap_system.md R220). -/
  | unsupportedTrapVector (vector : BitVec 8) (addr : Word)
  /-- Raised by GETC and IN when the input stream is closed and a byte is needed (44_trap_system.md R213). -/
  | inputExhausted (vector : BitVec 8) (addr : Word)
  deriving DecidableEq, Repr

/-- The names of the errors (60_exceptions.md R252). -/
inductive ErrorKind where
  | malformedImage | unsupportedOpcode | unsupportedTrapVector | inputExhausted
  deriving DecidableEq, Repr

/-- The two trap services that block for input (60_exceptions.md R271). -/
inductive InputService where
  | getc | inp
  deriving DecidableEq, Repr

/-- The run state (10_state.md R45), with the two conditions the spec names beside it: before boot (70_reset_and_hazards.md
R280) and waiting for input inside GETC or IN (60_exceptions.md R270, R271); assumption log 2. -/
inductive RunState where
  /-- Constructed, "not yet Running": no image has been loaded (70_reset_and_hazards.md R280). -/
  | constructed
  /-- Running (10_state.md R45). -/
  | running
  /-- Inside the step of GETC or IN, at its blocking read, the stream open and holding no byte (60_exceptions.md R271). -/
  | waiting (service : InputService)
  /-- Halted, with no error for HALT and a record for a fatal error (10_state.md R45). -/
  | halted (err : Option FatalErr)
  deriving DecidableEq, Repr

/-- What the host's input stream holds, in the order of time (10_state.md R47; assumption log 7). -/
inductive HostInput where
  /-- A byte the stream supplies. -/
  | byte (b : Byte)
  /-- The host has no byte at this moment: one non-blocking query is answered "none" (20_memory.md R74, 93 K5); a blocking
  read waits until it has passed. -/
  | pause
  deriving DecidableEq, Repr

/-- How the input stream goes on after the inputs listed (10_state.md R47; assumption log 33). -/
inductive InputEnd where
  /-- The host closes the stream: EOF. -/
  | closed
  /-- The stream stays open, and the host goes on with `cycle`, over and over; with an empty cycle it stays silent. -/
  | ongoing (cycle : List HostInput)
  deriving DecidableEq, Repr

/-- The whole state (10_state.md R30, R49). -/
structure State where
  /-- R0 to R7 (10_state.md R31). -/
  regs : Vector Word 8
  /-- The program counter (10_state.md R40). -/
  pc : Word
  /-- COND (10_state.md R36). -/
  cond : Cond
  /-- The 65536 memory cells (20_memory.md R60). -/
  mem : Mem
  /-- The run state (10_state.md R45). -/
  run : RunState
  /-- The input stream: what the host supplies next and the core has not consumed (10_state.md R47). -/
  inq : List HostInput
  /-- How the input stream goes on after `inq`: closed, silent, or without end (10_state.md R47; assumption log 33). -/
  inEnd : InputEnd
  /-- The bytes written so far, oldest first (10_state.md R47). -/
  outq : List Byte
  /-- The image the host has supplied and the loader has not loaded (70_reset_and_hazards.md R281, 60_exceptions.md R272). -/
  image : Option (List Byte)
  /-- The parameters, which no instruction changes (10_state.md R30, R46; assumption log 10). -/
  cfg : Config
  deriving DecidableEq, Repr

/-- Why a step does not produce a next state. None of these is raised where the spec gives the step an effect. -/
inductive Fault where
  /-- Raised by `step` in a Halted core: no step is enabled (40_cycle.md R140). Safe: the machine stops where the hardware
  has stopped. -/
  | halted
  /-- Raised by `step` in a constructed core whose host has supplied no image: Running has not been entered
  (70_reset_and_hazards.md R281). Safe: no step is enabled there. -/
  | noImage
  /-- Raised by the boot step: the image is rejected and the core never enters Running (20_memory.md R82, R83, 93 K17).
  Safe: the run never starts. -/
  | malformedImage
  /-- Raised by PUTS and PUTSP when their scan never meets its terminator: the step never completes (44_trap_system.md
  R223, 93 K15). Safe: the hardware reaches no further state. -/
  | scanNeverEnds
  deriving DecidableEq, Repr

/-- Why an instruction has no meaning in the model. -/
inductive Refusal where
  /-- Raised by `exec` for an instruction that has no meaning yet; no arm does. Safe. -/
  | notModelled (mnemonic : String)
  deriving DecidableEq, Repr

/-- A newly constructed machine with the parameters `cfg` (70_reset_and_hazards.md R280). The pc is unspecified until boot
sets it; the model names 0x0000 (assumption log 3). The host has supplied no image and no input yet (log 7, 8). -/
def State.construct (cfg : Config) : State where
  regs := cfg.gprInit
  pc := 0x0000
  cond := cfg.condInit
  mem := []
  run := .constructed
  inq := []
  inEnd := .ongoing []
  outq := []
  image := none
  cfg := cfg

/-- The machine right after reset, which is construction (70_reset_and_hazards.md R280), with the default parameters. -/
def State.reset : State := State.construct Config.standard

end Sys2Proof.Machine
end

