-- ==== Sys2Proof/Machine/Ops.lean ====
section
/-! DEFINITION. The named operations over memory, devices, registers, the streams and the run state. -/

namespace Sys2Proof.Machine

/-! Memory cells -/

/-- The content of cell `a`: an unlisted cell holds zero (20_memory.md R60, "zero-initialized at construction"). -/
def Mem.read : Mem → Word → Word
  | [], _ => 0
  | (k, x) :: m, a => if a.toNat = k then x else Mem.read m a

/-- `m` with the cell (k, v) put before it; a zero is not listed. -/
def Mem.cons (k : Nat) (v : Word) (m : Mem) : Mem := if v = 0 then m else (k, v) :: m

/-- Store `v` into cell `a` (20_memory.md R64), keeping the addresses rising and zeros unlisted. -/
def Mem.write : Mem → Word → Word → Mem
  | [], a, v => Mem.cons a.toNat v []
  | (k, x) :: m, a, v =>
    if a.toNat < k then Mem.cons a.toNat v ((k, x) :: m)
    else if a.toNat = k then Mem.cons a.toNat v m
    else (k, x) :: Mem.write m a v

/-- The canonical form: addresses inside the space and strictly rising, no zero listed. -/
def Mem.wf : Mem → Bool
  | [] => true
  | (k, x) :: m => decide (k < 65536) && x != 0 && m.all (fun c => decide (k < c.1)) && Mem.wf m

/-! Registers -/

/-- `x[r]` (00_scope.md R13). -/
def State.reg (s : State) (r : Reg) : Word := s.regs[r.val]

/-- `x[r] <-raw v`: write without touching COND (00_scope.md R13). -/
def State.setRegRaw (s : State) (r : Reg) (v : Word) : State := { s with regs := s.regs.set r.val v r.isLt }

/-- `x[r] <- v`: the flag-updating write, COND set from the stored value (00_scope.md R13, 10_state.md R37). -/
def State.setReg (s : State) (r : Reg) (v : Word) : State := { s.setRegRaw r v with cond := setcc v }

/-- `pc <- t` (00_scope.md R13); COND is not changed (10_state.md R41). -/
def State.setPc (s : State) (t : Word) : State := { s with pc := t }

/-- The link write `x[7] <-raw pc'` of JSR, JSRR and TRAP (10_state.md R33, R34). -/
def State.link (s : State) : State := s.setRegRaw 7 s.pc

/-! Devices and the memory primitives -/

/-- The device registered at `a`, if any (10_state.md R46, 20_memory.md R66). -/
def deviceIn : List (Word × Device) → Word → Option Device
  | [], _ => none
  | (k, d) :: ds, a => if a = k then some d else deviceIn ds a

/-- The device DEVICE_MAP registers at `a` (20_memory.md R63). -/
def State.deviceAt (s : State) (a : Word) : Option Device := deviceIn s.cfg.devices a

/-- `MemWrite(a, v)`: consults no device (20_memory.md R64). -/
def State.memWrite (s : State) (a v : Word) : State := { s with mem := Mem.write s.mem a v }

/-- What an open stream supplies over and over once the listed inputs are used up; nothing once it is closed. -/
def InputEnd.cycle : InputEnd → List HostInput
  | .closed => []
  | .ongoing c => c

/-- The inputs from the next one on: those listed or, once they are used up, the stream's cycle begun again (10_state.md R47). -/
def State.upcoming (s : State) : List HostInput :=
  match s.inq with
  | [] => s.inEnd.cycle
  | e :: rest => e :: rest

/-- Keyboard activation (20_memory.md R74): with a byte available now, take it, set the status and fill the data cell;
otherwise clear the status. It never waits, and a closed stream counts as not available (R65). -/
def State.activateKeyboard (s : State) : State :=
  match s.upcoming with
  | .byte c :: rest =>
    ({ s with inq := rest }.memWrite s.cfg.kbsrAddr s.cfg.kbReady).memWrite s.cfg.kbdrAddr (c.setWidth 16)
  | .pause :: rest => { s with inq := rest }.memWrite s.cfg.kbsrAddr s.cfg.kbNotReady
  | [] => s.memWrite s.cfg.kbsrAddr s.cfg.kbNotReady

/-- A device's activation hook (20_memory.md R65). -/
def State.activate (s : State) : Device → State
  | .keyboard => s.activateKeyboard

/-- The state a read of `a` leaves: activated exactly once where a device is registered (20_memory.md R63, R71). -/
def State.afterRead (s : State) (a : Word) : State :=
  match s.deviceAt a with
  | some d => s.activate d
  | none => s

/-- `MemRead(a)`: the cell after the activation, and the state it leaves (20_memory.md R63). -/
def State.memRead (s : State) (a : Word) : Word × State := (Mem.read (s.afterRead a).mem a, s.afterRead a)

/-! Fetch -/

/-- Fetch: read the word at pc, then increment pc, wrapping (40_cycle.md R141). The read activates a device like any other
(decision D16; assumption log 18). -/
def State.fetch (s : State) : Word × State := ((s.memRead s.pc).1, (s.memRead s.pc).2.setPc (s.pc + 1))

/-! The streams and the run state -/

/-- `out(b)` (00_scope.md R15). -/
def State.out (s : State) (b : Byte) : State := { s with outq := s.outq ++ [b] }

/-- `out` of each byte in turn. -/
def State.outAll (s : State) (bs : List Byte) : State := { s with outq := s.outq ++ bs }

/-- A blocking read: the first byte the stream supplies, past the moments at which it has none, and what remains
(10_state.md R47); none when it holds no byte. -/
def nextByte : List HostInput → Option (Byte × List HostInput)
  | [] => none
  | .byte b :: rest => some (b, rest)
  | .pause :: rest => nextByte rest

/-- `in()` when it yields a byte (00_scope.md R15): the first byte of the listed inputs, else of the stream's cycle, and
what remains; none when there is no byte in either. -/
def State.takeByte (s : State) : Option (Byte × List HostInput) :=
  match nextByte s.inq with
  | some r => some r
  | none => nextByte s.inEnd.cycle

/-- `raise Fatal(kind, info)`: the one operation by which an error ends a run. It saves nothing and transfers control
nowhere; registers, COND, memory and streams keep their values (60_exceptions.md R251, R257). There is no return from it
(R258). -/
def State.raiseFatal (s : State) (e : FatalErr) : State := { s with run := .halted (some e) }

/-- `halt`: Halted without an error (00_scope.md R15). -/
def State.halt (s : State) : State := { s with run := .halted none }

/-- The address `a` of the instruction under execution, whose `pc'` is pc (60_exceptions.md R252). -/
def State.instrAddr (s : State) : Word := s.pc - 1

/-- The name of a fatal error (60_exceptions.md R252). -/
def FatalErr.kind : FatalErr → ErrorKind
  | .unsupportedOpcode _ _ _ => .unsupportedOpcode
  | .unsupportedTrapVector _ _ => .unsupportedTrapVector
  | .inputExhausted _ _ => .inputExhausted

/-- The numeric codes (60_exceptions.md R252). -/
def ErrorKind.code : ErrorKind → Nat
  | .malformedImage => 0
  | .unsupportedOpcode => 1
  | .unsupportedTrapVector => 2
  | .inputExhausted => 3

/-! The host's moves (60_exceptions.md R272) -/

/-- The host supplies the image, before execution. -/
def State.supplyImage (s : State) (bytes : List Byte) : State := { s with image := some bytes }

/-- The host supplies input, or a moment without any. -/
def State.supplyInput (s : State) (e : HostInput) : State := { s with inq := s.inq ++ [e] }

/-- The host keeps the input stream open and goes on with `cycle` without end (10_state.md R47, 93 K5). -/
def State.supplyForever (s : State) (cycle : List HostInput) : State := { s with inEnd := .ongoing cycle }

/-- The host closes the input stream. -/
def State.closeInput (s : State) : State := { s with inEnd := .closed }

end Sys2Proof.Machine
end

