-- ==== Sys2Proof/Machine/Operands.lean ====
section
/-! DEFINITION. Immediates, addressing modes, and the splitting and joining of bytes. -/

namespace Sys2Proof.Machine

/-! Sign extension of every immediate and offset field (00_scope.md R12, 30_encoding.md R112) -/

/-- `sext_5(imm5)` as a Word. -/
def sext5 (v : BitVec 5) : Word := v.signExtend 16

/-- `sext_6(offset6)` as a Word. -/
def sext6 (v : BitVec 6) : Word := v.signExtend 16

/-- `sext_9(PCoffset9)` as a Word. -/
def sext9 (v : BitVec 9) : Word := v.signExtend 16

/-- `sext_11(PCoffset11)` as a Word. -/
def sext11 (v : BitVec 11) : Word := v.signExtend 16

/-! Addressing modes (43_loadstore.md R190); pc is `pc'`, and every sum wraps (20_memory.md R75) -/

/-- PC-relative with a 9-bit offset. -/
def State.pcRel9 (s : State) (off9 : BitVec 9) : Word := s.pc + sext9 off9

/-- PC-relative with an 11-bit offset (42_control.md R173). -/
def State.pcRel11 (s : State) (off11 : BitVec 11) : Word := s.pc + sext11 off11

/-- PC-relative indirect: the pointer read, which may activate a device, and the state it leaves. -/
def State.pcRelIndirect (s : State) (off9 : BitVec 9) : Word × State := s.memRead (s.pcRel9 off9)

/-- Base plus offset. -/
def State.baseOffset (s : State) (base : Reg) (off6 : BitVec 6) : Word := s.reg base + sext6 off6

/-! Bytes of a word (20_memory.md R68) -/

/-- `v[7:0]`. -/
def lowByte (v : Word) : Byte := v.extractLsb' 0 8

/-- `v[15:8]`. -/
def highByte (v : Word) : Byte := v.extractLsb' 8 8

/-- The word of two image bytes, the first the high one: `b0 * 256 + b1`. -/
def bigEndianWord (b0 b1 : Byte) : Word := b0 ++ b1

/-- A byte as the Word that GETC and IN store, `c & 0xFF` (44_trap_system.md R213). -/
def byteWord (c : Byte) : Word := c.setWidth 16

end Sys2Proof.Machine
end

