-- ==== Sys2Proof/Machine/Boot.lean ====
section
/-! DEFINITION. The image loader and boot (20_memory.md R82, R83; 70_reset_and_hazards.md R281). -/

namespace Sys2Proof.Machine

/-- The big-endian words of an image's bytes (20_memory.md R82); an odd byte at the end makes no word. -/
def wordsOfBytes : List Byte → List Word
  | b0 :: b1 :: rest => bigEndianWord b0 b1 :: wordsOfBytes rest
  | [_] => []
  | [] => []

/-- `load(address, words)`: consecutive cells from `a`, consulting no device (20_memory.md R82). -/
def loadWords : Word → List Word → Mem → Mem
  | _, [], m => m
  | a, w :: ws, m => loadWords (a + 1) ws (Mem.write m a w)

/-- `loadImage`: none is MalformedImage: a truncated header, a body of zero length, an odd byte count, or words past
address 0xFFFF (20_memory.md R82; decision D17; assumption log 21). Otherwise the start address and the loaded memory. -/
def loadImage (bytes : List Byte) (m : Mem) : Option (Word × Mem) :=
  match bytes with
  | [] => none
  | [_] => none
  | b0 :: b1 :: body =>
    if body.length = 0 ∨ body.length % 2 = 1 then none
    else if (bigEndianWord b0 b1).toNat + body.length / 2 > 65536 then none
    else some (bigEndianWord b0 b1, loadWords (bigEndianWord b0 b1) (wordsOfBytes body) m)

/-- Boot: load the one image the host supplied, set pc to its start address, run (70_reset_and_hazards.md R281). A
malformed image stops the machine before it is ever Running (20_memory.md R83). -/
def bootStep (s : State) : Host.Outcome State Fault Refusal :=
  match s.image with
  | none => .fault .noImage
  | some bytes =>
    match loadImage bytes s.mem with
    | none => .fault .malformedImage
    | some (origin, m) => .next { s with mem := m, pc := origin, run := .running, image := none }

end Sys2Proof.Machine
end

