-- ==== Sys2Proof/Machine/Control.lean ====
section
/-! DEFINITION. BR, JMP, RET, JSR, JSRR and NOP (42_control.md). pc is `pc'` on entry; COND is never changed. -/

namespace Sys2Proof.Machine

/-- The conditional branch (R170): taken, pc moves by the offset; not taken, pc stays `pc'`. -/
def State.branch (s : State) (mask : BitVec 3) (off9 : BitVec 9) : State :=
  if branchTaken mask s.cond then s.setPc (s.pcRel9 off9) else s

/-- `pc <- x[base]` (R171); every Word is a valid target (R175). -/
def State.jumpTo (s : State) (base : Reg) : State := s.setPc (s.reg base)

/-- BR (R170). -/
def execBr (mask : BitVec 3) (off9 : BitVec 9) (s : State) : Host.Outcome State Fault Refusal :=
  .next (s.branch mask off9)

/-- NOP, the word 0x0000: BR with mask 000 and offset 0, never taken (R170, 30_encoding.md R118, R121). -/
def execNop (s : State) : Host.Outcome State Fault Refusal := .next (s.branch 0 0)

/-- JMP (R171). -/
def execJmp (base : Reg) (s : State) : Host.Outcome State Fault Refusal := .next (s.jumpTo base)

/-- RET is JMP R7 (R172). -/
def execRet (s : State) : Host.Outcome State Fault Refusal := .next (s.jumpTo 7)

/-- JSR (R173): the link write, then the jump from `pc'`. -/
def execJsr (off11 : BitVec 11) (s : State) : Host.Outcome State Fault Refusal :=
  .next (s.link.setPc (s.pcRel11 off11))

/-- JSRR (R174): under JSRR_BASE_AFTER_LINK the link write comes first, so JSRR R7 goes on at `pc'`; otherwise the target
is read first (decision D10; assumption log 16). -/
def execJsrr (base : Reg) (s : State) : Host.Outcome State Fault Refusal :=
  .next (if s.cfg.jsrrBaseAfterLink then s.link.jumpTo base else s.link.setPc (s.reg base))

end Sys2Proof.Machine
end

