-- ==== Sys2Proof/Machine/LoadStore.lean ====
section
/-! DEFINITION. LD, LDI, LDR, LEA, ST, STI and STR (43_loadstore.md). Reads activate a device at a registered address,
writes never do (20_memory.md R63, R64). -/

namespace Sys2Proof.Machine

/-- Load DR from `a`: one MemRead, then the flag-updating write. -/
def State.load (s : State) (dr : Reg) (a : Word) : State := (s.memRead a).2.setReg dr (s.memRead a).1

/-- LD (R191). -/
def execLd (dr : Reg) (off9 : BitVec 9) (s : State) : Host.Outcome State Fault Refusal :=
  .next (s.load dr (s.pcRel9 off9))

/-- LDI (R192): the pointer read, then the data read, in this order. -/
def execLdi (dr : Reg) (off9 : BitVec 9) (s : State) : Host.Outcome State Fault Refusal :=
  .next ((s.pcRelIndirect off9).2.load dr (s.pcRelIndirect off9).1)

/-- LDR (R193): the base is read before DR is written. -/
def execLdr (dr base : Reg) (off6 : BitVec 6) (s : State) : Host.Outcome State Fault Refusal :=
  .next (s.load dr (s.baseOffset base off6))

/-- LEA (R194): no memory access, so no activation; this hardware's LEA sets the flags. -/
def execLea (dr : Reg) (off9 : BitVec 9) (s : State) : Host.Outcome State Fault Refusal :=
  .next (s.setReg dr (s.pcRel9 off9))

/-- ST (R195). -/
def execSt (sr : Reg) (off9 : BitVec 9) (s : State) : Host.Outcome State Fault Refusal :=
  .next (s.memWrite (s.pcRel9 off9) (s.reg sr))

/-- STI (R196): the pointer read may activate a device, the final write does not. -/
def execSti (sr : Reg) (off9 : BitVec 9) (s : State) : Host.Outcome State Fault Refusal :=
  .next ((s.pcRelIndirect off9).2.memWrite (s.pcRelIndirect off9).1 (s.reg sr))

/-- STR (R197). -/
def execStr (sr base : Reg) (off6 : BitVec 6) (s : State) : Host.Outcome State Fault Refusal :=
  .next (s.memWrite (s.baseOffset base off6) (s.reg sr))

end Sys2Proof.Machine
end

