-- ==== Sys2Proof/Machine/Operate.lean ====
section
/-! DEFINITION. ADD, AND and NOT (41_operate.md). The sources are read before the destination is written. -/

namespace Sys2Proof.Machine

/-- ADD DR, SR1, SR2 (R150): the sum wraps silently (R153). -/
def execAdd (dr sr1 sr2 : Reg) (s : State) : Host.Outcome State Fault Refusal :=
  .next (s.setReg dr (s.reg sr1 + s.reg sr2))

/-- ADD DR, SR1, #imm5 (R150). -/
def execAddImm (dr sr1 : Reg) (imm5 : BitVec 5) (s : State) : Host.Outcome State Fault Refusal :=
  .next (s.setReg dr (s.reg sr1 + sext5 imm5))

/-- AND DR, SR1, SR2 (R151). -/
def execAnd (dr sr1 sr2 : Reg) (s : State) : Host.Outcome State Fault Refusal :=
  .next (s.setReg dr (s.reg sr1 &&& s.reg sr2))

/-- AND DR, SR1, #imm5 (R151). -/
def execAndImm (dr sr1 : Reg) (imm5 : BitVec 5) (s : State) : Host.Outcome State Fault Refusal :=
  .next (s.setReg dr (s.reg sr1 &&& sext5 imm5))

/-- NOT DR, SR (R152). -/
def execNot (dr sr : Reg) (s : State) : Host.Outcome State Fault Refusal :=
  .next (s.setReg dr (~~~ s.reg sr))

end Sys2Proof.Machine
end

