-- ==== Sys2Proof/Machine/System.lean ====
section
/-! DEFINITION. RTI and RES (44_trap_system.md). -/

namespace Sys2Proof.Machine

/-- RTI (R221): a no-op in any state; it restores nothing (60_exceptions.md R258, R260). -/
def execRti (s : State) : Host.Outcome State Fault Refusal := .next s

/-- RES (R222): fatal UnsupportedOpcode with the opcode, the word and its address, or a no-op under IGNORE. -/
def execRes (low12 : BitVec 12) (s : State) : Host.Outcome State Fault Refusal :=
  match s.cfg.unsupportedPolicy with
  | .fatal => .next (s.raiseFatal (.unsupportedOpcode 0xD (0xD#4 ++ low12) s.instrAddr))
  | .ignore => .next s

end Sys2Proof.Machine
end

