-- ==== Sys2Proof/Machine/Trap.lean ====
section
/-! DEFINITION. TRAP and the six services of the trap dispatcher (44_trap_system.md). Each service below runs on the state
after the link write (R210); none writes pc, so the machine goes on at `pc'`. -/

namespace Sys2Proof.Machine

/-! GETC and IN -/

/-- The vector of a blocking service (30_encoding.md R113). -/
def InputService.vector : InputService → BitVec 8
  | .getc => 0x20
  | .inp => 0x23

/-- The R0 write of GETC and IN, flag-updating under TRAP_INPUT_SETS_FLAGS (R213). -/
def State.inputWrite (s : State) (c : Byte) : State :=
  if s.cfg.trapInputSetsFlags then s.setReg 0 (byteWord c) else s.setRegRaw 0 (byteWord c)

/-- What a service does with its byte: the R0 write, and for IN the echo after it (R214, R217). -/
def State.inputDone (s : State) (c : Byte) : InputService → State
  | .getc => s.inputWrite c
  | .inp => (s.inputWrite c).out c

/-- `trap_input` (R213): take the next byte, or, when the stream supplies none, raise InputExhausted if it is closed and wait
if it is open (60_exceptions.md R271; assumption log 2). -/
def State.trapInput (s : State) (svc : InputService) : State :=
  match s.takeByte with
  | some (c, rest) => { s with inq := rest }.inputDone c svc
  | none =>
    match s.inEnd with
    | .closed => s.raiseFatal (.inputExhausted svc.vector s.instrAddr)
    | .ongoing _ => { s with run := .waiting svc }

/-- GETC (R214): no prompt, no echo. -/
def State.serviceGetc (s : State) : State := s.trapInput .getc

/-- IN (R217): the prompt, the byte, its R0 write, its echo. -/
def State.serviceIn (s : State) : State := (s.outAll s.cfg.inPrompt).trapInput .inp

/-- Completing a wait: the same blocking read again, with the core running once it has a byte (60_exceptions.md R271). -/
def State.resumeInput (s : State) (svc : InputService) : State := { s with run := .running }.trapInput svc

/-! OUT, HALT and unsupported vectors -/

/-- OUT (R215): the low byte of R0. -/
def State.serviceOut (s : State) : State := s.out (lowByte (s.reg 0))

/-- HALT (R219): the message, then Halted without an error. -/
def State.serviceHalt (s : State) : State := (s.outAll s.cfg.haltMessage).halt

/-- Any other vector (R220): fatal, or nothing beyond the link write. -/
def State.serviceUnsupported (s : State) (v : BitVec 8) : State :=
  match s.cfg.unsupportedPolicy with
  | .fatal => s.raiseFatal (.unsupportedTrapVector v s.instrAddr)
  | .ignore => s

/-! PUTS and PUTSP: scans from the address in R0, which wraps (R216, R218) -/

/-- PUTS's loop for at most `fuel` cells from `p` (R216); none when it has met no zero cell by then. -/
def scanPuts : Nat → Word → State → Option State
  | 0, _, _ => none
  | fuel + 1, p, s =>
    if (s.memRead p).1 = 0 then some (s.memRead p).2
    else scanPuts fuel (p + 1) ((s.memRead p).2.out (lowByte (s.memRead p).1))

/-- PUTSP's loop for at most `fuel` cells from `p`, each cell low byte then high byte (R218). -/
def scanPutsp : Nat → Word → State → Option State
  | 0, _, _ => none
  | fuel + 1, p, s =>
    let v := (s.memRead p).1
    let s1 := (s.memRead p).2
    if lowByte v = 0 then some s1
    else if highByte v = 0 then some (s1.out (lowByte v))
    else scanPutsp fuel (p + 1) ((s1.out (lowByte v)).out (highByte v))

/-- A bound past which a scan that has met no terminator meets none. Each turn over the 65536 cells meets no device and
changes no cell, or consumes the same number of inputs, at least one. So the listed inputs last at most their number of
turns. With an empty cycle one more turn leaves the cells as they stay and another has seen them. With a cycle of `P` inputs
the state at the end of a turn depends, `P` turns later, on the place in the cycle alone and repeats after `P` more (R223;
assumption log 9). -/
def scanFuel (s : State) : Nat := 65536 * (s.inq.length + 2 * s.inEnd.cycle.length + 2)

/-- A scan that never meets its terminator, be it that every cell is non-zero or that device activations keep refilling
cells, never completes the step: a hang, not a halt (R223). -/
def scanOutcome : Option State → Host.Outcome State Fault Refusal
  | some s => .next s
  | none => .fault .scanNeverEnds

/-- PUTS (R216). -/
def servicePuts (s : State) : Host.Outcome State Fault Refusal := scanOutcome (scanPuts (scanFuel s) (s.reg 0) s)

/-- PUTSP (R218). -/
def servicePutsp (s : State) : Host.Outcome State Fault Refusal := scanOutcome (scanPutsp (scanFuel s) (s.reg 0) s)

/-! The dispatcher -/

/-- The trap dispatcher (R211): exactly one service by the vector's number. -/
def trapService (v : BitVec 8) (s : State) : Host.Outcome State Fault Refusal :=
  if v = 0x20 then .next s.serviceGetc
  else if v = 0x21 then .next s.serviceOut
  else if v = 0x22 then servicePuts s
  else if v = 0x23 then .next s.serviceIn
  else if v = 0x24 then servicePutsp s
  else if v = 0x25 then .next s.serviceHalt
  else .next (s.serviceUnsupported v)

/-- TRAP (R210): the link write, then the dispatch. -/
def execTrap (v : BitVec 8) (s : State) : Host.Outcome State Fault Refusal := trapService v s.link

/-- GETC is TRAP x20 (R214). -/
def execGetc (s : State) : Host.Outcome State Fault Refusal := .next s.link.serviceGetc

/-- OUT is TRAP x21 (R215). -/
def execOut (s : State) : Host.Outcome State Fault Refusal := .next s.link.serviceOut

/-- PUTS is TRAP x22 (R216). -/
def execPuts (s : State) : Host.Outcome State Fault Refusal := servicePuts s.link

/-- IN is TRAP x23 (R217). -/
def execIn (s : State) : Host.Outcome State Fault Refusal := .next s.link.serviceIn

/-- PUTSP is TRAP x24 (R218). -/
def execPutsp (s : State) : Host.Outcome State Fault Refusal := servicePutsp s.link

/-- HALT is TRAP x25 (R219). -/
def execHalt (s : State) : Host.Outcome State Fault Refusal := .next s.link.serviceHalt

end Sys2Proof.Machine
end

