-- ==== Sys2Proof/Machine/Step.lean ====
section
/-! DEFINITION. One step of the machine, and the host's way to place an instruction. -/

namespace Sys2Proof.Machine

/-- One step. Running: fetch, then execute (40_cycle.md R141, R143). Waiting inside GETC or IN: the blocking read again
(60_exceptions.md R271). Constructed: boot (70_reset_and_hazards.md R281). Halted: no step is enabled (40_cycle.md R140). -/
def step (s : State) : Host.Outcome State Fault Refusal :=
  match s.run with
  | .running => exec (decode s.fetch.1) s.fetch.2
  | .waiting svc => .next (s.resumeInput svc)
  | .constructed => bootStep s
  | .halted _ => .fault .halted

/-- `s` running, with the word stored at pc, where the next step fetches it (40_cycle.md R141); a device registered at pc is
unregistered, since its activation could change the word before it is taken. It stands for the load of an image
(assumption log 8). -/
def State.withFetchWord (s : State) (nbits w : Nat) : State :=
  { s.memWrite s.pc (BitVec.ofNat 16 (w % 2 ^ nbits)) with
    run := .running
    cfg := { s.cfg with devices := s.cfg.devices.filter (fun d => d.1 != s.pc) } }

end Sys2Proof.Machine
end

