-- ==== Sys2Proof/Safety.lean ====
section
/-! DEFINITION. What claims call a legal state and a safe run. -/

namespace Sys2Proof.Machine

/-- An error record says what it must of the instruction that raised it: its address is the one before pc, an unsupported
opcode is 0xD and heads the recorded word, an unsupported vector is no service's, and only GETC and IN exhaust the input
(60_exceptions.md R252). -/
def FatalErr.matchesPc (pc : Word) : FatalErr → Prop
  | .unsupportedOpcode op instr addr => op = 0xD ∧ instr.extractLsb' 12 4 = op ∧ addr + 1 = pc
  | .unsupportedTrapVector v addr => supportedVector v = false ∧ addr + 1 = pc
  | .inputExhausted v addr => (v = 0x20 ∨ v = 0x23) ∧ addr + 1 = pc

/-- What the run state says of the rest: while waiting, the link is already written (44_trap_system.md R210, R213), and a
halted core's error record fits its pc (60_exceptions.md R252, R254). -/
def State.runLegal (s : State) : Prop :=
  match s.run with
  | .waiting _ => s.reg 7 = s.pc
  | .halted (some e) => e.matchesPc s.pc
  | .halted none => s.reg 7 = s.pc
  | .constructed => True
  | .running => True

/-- The invariant of the machine: memory is canonical and the run state fits the rest. -/
def State.Inv (s : State) : Prop := Mem.wf s.mem = true ∧ s.runLegal

/-- The core has not ended in an error (60_exceptions.md R251). -/
def State.Safe (s : State) : Prop := ∀ e, s.run ≠ .halted (some e)

/-- The default platform of 00_scope.md R9 as far as memory reads go: the keyboard is the one registered device, at
KBSR_ADDR, and an activation that finds no byte writes zero there. -/
def State.DefaultKeyboard (s : State) : Prop :=
  s.cfg.devices = [(s.cfg.kbsrAddr, .keyboard)] ∧ s.cfg.kbNotReady = 0

/-! The words in which claims say what an instruction changes and leaves unchanged -/

/-- The run state, the streams, the pending image and the parameters are unchanged. -/
def State.SameRest (s t : State) : Prop :=
  t.run = s.run ∧ t.inq = s.inq ∧ t.inEnd = s.inEnd ∧ t.outq = s.outq ∧ t.image = s.image ∧ t.cfg = s.cfg

/-- The input from `s` to `t` is consumed from the front: what `s` lists, followed by whole turns of the stream's cycle, is
some consumed inputs and then what `t` lists (10_state.md R47). How the stream goes on is unchanged. -/
def State.ConsumesInput (s t : State) : Prop :=
  t.inEnd = s.inEnd ∧ ∃ l n, s.inq ++ (List.replicate n s.inEnd.cycle).flatten = l ++ t.inq

/-- The stream supplies the byte `c` next, after moments without any, and `rest` is what it then lists: the byte is listed,
or it is in the cycle after which no listed byte is left (44_trap_system.md R213). -/
def State.SuppliesByte (s : State) (c : Byte) (rest : List HostInput) : Prop :=
  (∃ k, s.inq = List.replicate k .pause ++ .byte c :: rest) ∨
  (∃ k m, s.inq = List.replicate k .pause ∧ s.inEnd.cycle = List.replicate m .pause ++ .byte c :: rest)

/-- The stream supplies no byte: none is listed and none is in its cycle (60_exceptions.md R271). -/
def State.SuppliesNone (s : State) : Prop :=
  (∃ k, s.inq = List.replicate k .pause) ∧ ∃ m, s.inEnd.cycle = List.replicate m .pause

/-- The host does not have a byte ready at every moment to come: the stream ends, falls silent, or pauses again and again. -/
def State.NotEndlesslyReady (s : State) : Prop := s.inEnd.cycle = [] ∨ .pause ∈ s.inEnd.cycle

/-- Every cell reads as before. -/
def State.SameMem (s t : State) : Prop := ∀ b, Mem.read t.mem b = Mem.read s.mem b

/-- Every register reads as before. -/
def State.SameRegs (s t : State) : Prop := ∀ q, t.reg q = s.reg q

/-- Every register but `r` reads as before. -/
def State.SameRegsBut (r : Reg) (s t : State) : Prop := ∀ q, q ≠ r → t.reg q = s.reg q

/-- `t` is `s` after the flag-updating write of `v` to DR, and nothing else (10_state.md R37, 40_cycle.md R145). -/
def State.WritesResult (dr : Reg) (v : Word) (s t : State) : Prop :=
  t.reg dr = v ∧ t.cond = setcc v ∧ s.SameRegsBut dr t ∧ t.pc = s.pc ∧ s.SameMem t ∧ s.SameRest t

/-- `t` is `s` after the flag-updating load of DR from address `a`: one read of `a`, which may activate a device, and the
write (20_memory.md R63, 43_loadstore.md R190). Where no device is at `a`, no cell and no input changes. -/
def State.Loads (dr : Reg) (a : Word) (s t : State) : Prop :=
  t.reg dr = (s.memRead a).1 ∧ t.cond = setcc (s.memRead a).1 ∧ s.SameRegsBut dr t ∧ t.pc = s.pc ∧
  (s.memRead a).2.SameMem t ∧ t.inq = (s.memRead a).2.inq ∧
  t.run = s.run ∧ t.inEnd = s.inEnd ∧ t.outq = s.outq ∧ t.image = s.image ∧ t.cfg = s.cfg ∧
  (s.deviceAt a = none → t.reg dr = Mem.read s.mem a ∧ s.SameMem t ∧ t.inq = s.inq)

/-- `t` is `s` after a store of `v` into cell `a`, and nothing else: no device is consulted, COND and every register stay
(20_memory.md R64). The cell reads `v` where memory is canonical. -/
def State.Stores (a v : Word) (s t : State) : Prop :=
  (Mem.wf s.mem = true → Mem.read t.mem a = v) ∧ (∀ b, b ≠ a → Mem.read t.mem b = Mem.read s.mem b) ∧
  s.SameRegs t ∧ t.cond = s.cond ∧ t.pc = s.pc ∧ s.SameRest t

/-- `t` is `s` with pc at `target`, and nothing else. -/
def State.Jumps (target : Word) (s t : State) : Prop :=
  t.pc = target ∧ s.SameRegs t ∧ t.cond = s.cond ∧ s.SameMem t ∧ s.SameRest t

/-- `t` is `s` with `pc'` in R7 and pc at `target`, and nothing else: COND is not changed (10_state.md R34). -/
def State.Links (target : Word) (s t : State) : Prop :=
  t.pc = target ∧ t.reg 7 = s.pc ∧ s.SameRegsBut 7 t ∧ t.cond = s.cond ∧ s.SameMem t ∧ s.SameRest t

/-- `t` is `s` after a TRAP that changes, beyond the link write, at most R0, COND, the streams and the run state: pc stays
`pc'` and holds the value of R7, R1 to R6, every cell, the pending image and the parameters stay (44_trap_system.md R210,
R212). -/
def State.Traps (s t : State) : Prop :=
  t.pc = s.pc ∧ t.reg 7 = s.pc ∧ (∀ q, q ≠ 0 → q ≠ 7 → t.reg q = s.reg q) ∧ s.SameMem t ∧ t.inEnd = s.inEnd ∧
  t.image = s.image ∧ t.cfg = s.cfg

end Sys2Proof.Machine
end

