-- ==== Sys2Proof/Certificates/Slice0/Obligations.lean ====
section
/-! DEFINITION. The statements for the provers, from the numbered rules of spec/. -/

open Sys2Proof Sys2Proof.Machine

/-! Words and encoding -/

/-- Every well-formed instruction, with every operand, is what its word decodes to (30_encoding.md R104, R119). -/
def Obligations.DecodeOfEncode : Prop :=
  ∀ i : Instr, i.wellFormed = true → decode (encode i) = i

/-- The decoder answers no ill-formed instruction: the words of an alias decode to the alias (R119, R121; log 11). -/
def Obligations.DecodedIsWellFormed : Prop :=
  ∀ w : Word, (decode w).wellFormed = true

/-- The opcode is `instr[15:12]` and decides the instruction alone (R101); the numbers are R102's (decision D1, log 13). -/
def Obligations.TopFourBitsAreTheOpcode : Prop :=
  ∀ w : Word, (decode w).opcodeNumber = w.extractLsb' 12 4

/-- Bits marked `u` in R104 do not matter: a word decodes as the word whose `u` bits are LC-3's, which is the word the
encoder writes; RES's twelve bits stay, being the recorded word (R115, decision D9; log 12, 15). -/
def Obligations.UnusedBitsAreIgnored : Prop :=
  ∀ w : Word,
    decode (encode (decode w)) = decode w ∧
    (w.extractLsb' 12 4 ∈ [0x0#4, 0x2#4, 0x3#4, 0x6#4, 0x7#4, 0xA#4, 0xB#4, 0xD#4, 0xE#4] → encode (decode w) = w) ∧
    (w.extractLsb' 12 4 ∈ [0x1#4, 0x5#4] → w.getLsbD 5 = true → encode (decode w) = w) ∧
    (w.extractLsb' 12 4 ∈ [0x1#4, 0x5#4] → w.getLsbD 5 = false → encode (decode w) = w &&& 0xFFE7) ∧
    (w.extractLsb' 12 4 = 0x9 → encode (decode w) = w ||| 0x003F) ∧
    (w.extractLsb' 12 4 = 0xC → encode (decode w) = w &&& 0xF1C0) ∧
    (w.extractLsb' 12 4 = 0x4 → w.getLsbD 11 = true → encode (decode w) = w) ∧
    (w.extractLsb' 12 4 = 0x4 → w.getLsbD 11 = false → encode (decode w) = w &&& 0xF9C0) ∧
    (w.extractLsb' 12 4 = 0xF → encode (decode w) = w &&& 0xF0FF) ∧
    (w.extractLsb' 12 4 = 0x8 → encode (decode w) = w &&& 0xF000)

/-- Words written out from R104 and the rules' own examples decode to the instructions they stand for. -/
def Obligations.SampleWordsDecode : Prop :=
  decode 0x167F = .addImm 3 1 0x1F ∧ decode 0x5042 = .and 0 1 2 ∧ decode 0x947F = .not 2 1 ∧
  decode 0x0405 = .br 0b010 5 ∧ decode 0xC080 = .jmp 2 ∧ decode 0x4C00 = .jsr 0x400 ∧ decode 0x40C0 = .jsrr 3 ∧
  decode 0x21FF = .ld 0 0x1FF ∧ decode 0xA401 = .ldi 2 1 ∧ decode 0x6960 = .ldr 4 5 0x20 ∧ decode 0xEC05 = .lea 6 5 ∧
  decode 0x3600 = .st 3 0 ∧ decode 0xB203 = .sti 1 3 ∧ decode 0x72BF = .str 1 2 0x3F ∧ decode 0xF026 = .trap 0x26 ∧
  decode 0xF125 = .halt ∧ decode 0x8000 = .rti ∧ decode 0xDFFF = .res 0xFFF ∧ decode 0xC1C0 = .ret

/-- An offset or immediate field is `v - 2^N` when its top bit is set and `v` otherwise, and its sum with a Word wraps mod
2^16 (00_scope.md R12, R11). -/
def Obligations.SignExtensionOfFields : Prop :=
  (∀ (a : Word) (v : BitVec 5), a + sext5 v = BitVec.ofInt 16 (a.toNat + (if v.msb then (v.toNat : Int) - 32 else v.toNat))) ∧
  (∀ (a : Word) (v : BitVec 6), a + sext6 v = BitVec.ofInt 16 (a.toNat + (if v.msb then (v.toNat : Int) - 64 else v.toNat))) ∧
  (∀ (a : Word) (v : BitVec 9), a + sext9 v = BitVec.ofInt 16 (a.toNat + (if v.msb then (v.toNat : Int) - 512 else v.toNat))) ∧
  (∀ (a : Word) (v : BitVec 11), a + sext11 v = BitVec.ofInt 16 (a.toNat + (if v.msb then (v.toNat : Int) - 2048 else v.toNat)))

/-! Registers and flags -/

/-- The flag rule, and the flag-updating write that follows it from the stored value (10_state.md R37). -/
def Obligations.FlagRule : Prop :=
  ∀ (s : State) (r : Reg) (v : Word),
    setcc v = (if v = 0 then .z else if v.getLsbD 15 = true then .n else .p) ∧
    (s.setReg r v).reg r = v ∧ (s.setReg r v).cond = setcc ((s.setReg r v).reg r) ∧
    s.SameRegsBut r (s.setReg r v)

/-- After a flag-updating write exactly one of N, Z and P is set, so a step of a running core never loses it (R36). -/
def Obligations.AFlagStaysSet : Prop :=
  ∀ s t : State, step s = .next t → s.cond ≠ .none → t.cond ≠ .none

/-- ADD, in both forms, completes with the wrapped sum in DR and its flags, and changes nothing else (R150). -/
def Obligations.AddResult : Prop :=
  ∀ (s : State) (dr sr1 sr2 : Reg) (imm5 : BitVec 5),
    (∃ t, exec (.add dr sr1 sr2) s = .next t ∧ s.WritesResult dr (s.reg sr1 + s.reg sr2) t) ∧
    (∃ t, exec (.addImm dr sr1 imm5) s = .next t ∧ s.WritesResult dr (s.reg sr1 + sext5 imm5) t)

/-- AND, in both forms, completes with the conjunction in DR and its flags, and changes nothing else (R151). -/
def Obligations.AndResult : Prop :=
  ∀ (s : State) (dr sr1 sr2 : Reg) (imm5 : BitVec 5),
    (∃ t, exec (.and dr sr1 sr2) s = .next t ∧ s.WritesResult dr (s.reg sr1 &&& s.reg sr2) t) ∧
    (∃ t, exec (.andImm dr sr1 imm5) s = .next t ∧ s.WritesResult dr (s.reg sr1 &&& sext5 imm5) t)

/-- NOT completes with 0xFFFF - SR in DR and its flags, and changes nothing else (R152). -/
def Obligations.NotResult : Prop :=
  ∀ (s : State) (dr sr : Reg),
    ∃ t, exec (.not dr sr) s = .next t ∧ s.WritesResult dr (0xFFFF - s.reg sr) t

/-! Control transfer -/

/-- BR completes at the target when the mask has the bit of the current flag, at `pc'` otherwise, never while COND is NONE,
and changes nothing but pc; NOP changes nothing (R170; the mask bits are decision D3, log 13). -/
def Obligations.BranchResult : Prop :=
  ∀ (s : State) (mask : BitVec 3) (off9 : BitVec 9),
    (∃ t, exec (.br mask off9) s = .next t ∧
      s.Jumps (if (s.cond = .n ∧ mask.getLsbD 2 = true) ∨ (s.cond = .z ∧ mask.getLsbD 1 = true) ∨
                  (s.cond = .p ∧ mask.getLsbD 0 = true)
               then s.pc + sext9 off9 else s.pc) t) ∧
    exec .nop s = .next s

/-- JMP completes at the address in BaseR, RET at the one in R7; nothing but pc changes (R171, R172). -/
def Obligations.JumpResult : Prop :=
  ∀ (s : State) (base : Reg),
    (∃ t, exec (.jmp base) s = .next t ∧ s.Jumps (s.reg base) t) ∧
    (∃ t, exec .ret s = .next t ∧ s.Jumps (s.reg 7) t)

/-- JSR completes with `pc'` in R7 and pc moved by the offset from `pc'`; COND and the rest stay (R173). -/
def Obligations.JsrResult : Prop :=
  ∀ (s : State) (off11 : BitVec 11),
    ∃ t, exec (.jsr off11) s = .next t ∧ s.Links (s.pc + sext11 off11) t

/-- JSRR completes with `pc'` in R7. With BaseR other than R7 it goes on at BaseR; JSRR R7 goes on at `pc'` when the base is
read after the link write, and at the old R7 when it is read before (R174; the order is decision D10, log 16). -/
def Obligations.JsrrResult : Prop :=
  ∀ (s : State) (base : Reg),
    ∃ t, exec (.jsrr base) s = .next t ∧
      s.Links (if base = 7 ∧ s.cfg.jsrrBaseAfterLink = true then s.pc else s.reg base) t

/-! Memory, devices, loads and stores -/

/-- MemRead activates the device registered at the address exactly once and answers the cell after that; with no device it
answers the raw cell and changes nothing (R63). -/
def Obligations.MemReadRule : Prop :=
  ∀ (s : State) (a : Word),
    (∀ d, s.deviceAt a = some d → s.memRead a = (Mem.read (s.activate d).mem a, s.activate d)) ∧
    (s.deviceAt a = none → s.memRead a = (Mem.read s.mem a, s))

/-- MemWrite stores the value and consults no device, at any address (R64). -/
def Obligations.MemWriteRule : Prop :=
  ∀ (s : State) (a v : Word), s.Stores a v (s.memWrite a v)

/-- The keyboard's activation takes the byte that is available now, sets KBSR and fills KBDR; with none available, or the
stream ended, it clears KBSR and keeps KBDR; the inputs are those listed, then the stream's cycle (log 33); nothing else changes and it never waits (R74; decision D6, log 14). -/
def Obligations.KeyboardActivation : Prop :=
  ∀ s : State, Mem.wf s.mem = true → s.cfg.kbsrAddr ≠ s.cfg.kbdrAddr →
    (∀ c rest, s.upcoming = .byte c :: rest →
      (s.activate .keyboard).inq = rest ∧ Mem.read (s.activate .keyboard).mem s.cfg.kbsrAddr = s.cfg.kbReady ∧
      Mem.read (s.activate .keyboard).mem s.cfg.kbdrAddr = BitVec.ofNat 16 c.toNat) ∧
    ((s.upcoming = [] ∨ ∃ rest, s.upcoming = .pause :: rest) →
      (s.activate .keyboard).inq = s.upcoming.tail ∧
      Mem.read (s.activate .keyboard).mem s.cfg.kbsrAddr = s.cfg.kbNotReady ∧
      Mem.read (s.activate .keyboard).mem s.cfg.kbdrAddr = Mem.read s.mem s.cfg.kbdrAddr) ∧
    (∀ b, b ≠ s.cfg.kbsrAddr → b ≠ s.cfg.kbdrAddr → Mem.read (s.activate .keyboard).mem b = Mem.read s.mem b) ∧
    s.SameRegs (s.activate .keyboard) ∧ (s.activate .keyboard).pc = s.pc ∧ (s.activate .keyboard).cond = s.cond ∧
    (s.activate .keyboard).run = s.run ∧ (s.activate .keyboard).inEnd = s.inEnd ∧
    (s.activate .keyboard).outq = s.outq ∧ (s.activate .keyboard).image = s.image ∧ (s.activate .keyboard).cfg = s.cfg

/-- LD completes with the word at `pc' + offset` in DR and its flags (R191). -/
def Obligations.LdResult : Prop :=
  ∀ (s : State) (dr : Reg) (off9 : BitVec 9),
    ∃ t, exec (.ld dr off9) s = .next t ∧ s.Loads dr (s.pc + sext9 off9) t

/-- LDI completes with the word at the address read from `pc' + offset` in DR and its flags: two reads, in this order, each
of which may activate a device (R192). -/
def Obligations.LdiResult : Prop :=
  ∀ (s : State) (dr : Reg) (off9 : BitVec 9),
    ∃ t, exec (.ldi dr off9) s = .next t ∧
      (s.memRead (s.pc + sext9 off9)).2.Loads dr (s.memRead (s.pc + sext9 off9)).1 t ∧
      s.SameRegsBut dr t ∧ t.pc = s.pc ∧ t.run = s.run ∧ t.outq = s.outq ∧ t.inEnd = s.inEnd ∧
      t.image = s.image ∧ t.cfg = s.cfg

/-- LDR completes with the word at `BaseR + offset` in DR and its flags, the base read before DR is written (R193). -/
def Obligations.LdrResult : Prop :=
  ∀ (s : State) (dr base : Reg) (off6 : BitVec 6),
    ∃ t, exec (.ldr dr base off6) s = .next t ∧ s.Loads dr (s.reg base + sext6 off6) t

/-- LEA completes with `pc' + offset` in DR and its flags, and no memory access (R194). -/
def Obligations.LeaResult : Prop :=
  ∀ (s : State) (dr : Reg) (off9 : BitVec 9),
    ∃ t, exec (.lea dr off9) s = .next t ∧ s.WritesResult dr (s.pc + sext9 off9) t

/-- ST completes with SR in the cell at `pc' + offset` and nothing else changed (R195). -/
def Obligations.StResult : Prop :=
  ∀ (s : State) (sr : Reg) (off9 : BitVec 9),
    ∃ t, exec (.st sr off9) s = .next t ∧ s.Stores (s.pc + sext9 off9) (s.reg sr) t

/-- STI completes with SR in the cell whose address it read from `pc' + offset`; the pointer read may activate a device,
the write does not (R196). -/
def Obligations.StiResult : Prop :=
  ∀ (s : State) (sr : Reg) (off9 : BitVec 9),
    ∃ t, exec (.sti sr off9) s = .next t ∧
      (s.memRead (s.pc + sext9 off9)).2.Stores (s.memRead (s.pc + sext9 off9)).1 (s.reg sr) t ∧
      s.SameRegs t ∧ t.cond = s.cond ∧ t.pc = s.pc ∧ t.run = s.run ∧ t.outq = s.outq ∧ t.inEnd = s.inEnd ∧
      t.image = s.image ∧ t.cfg = s.cfg

/-- STR completes with SR in the cell at `BaseR + offset` and nothing else changed (R197). -/
def Obligations.StrResult : Prop :=
  ∀ (s : State) (sr base : Reg) (off6 : BitVec 6),
    ∃ t, exec (.str sr base off6) s = .next t ∧ s.Stores (s.reg base + sext6 off6) (s.reg sr) t

/-- A value stored and loaded back at the same address, no device there and no write between, comes back unchanged; the
load may run at any pc (R198). -/
def Obligations.StoreThenLoadRoundTrip : Prop :=
  ∀ (s t u : State) (sr dr : Reg) (p : Word), Mem.wf s.mem = true →
    (∀ off off' : BitVec 9, exec (.st sr off) s = .next t → exec (.ld dr off') (t.setPc p) = .next u →
      p + sext9 off' = s.pc + sext9 off → s.deviceAt (s.pc + sext9 off) = none → u.reg dr = s.reg sr) ∧
    (∀ (b b' : Reg) (off off' : BitVec 6), exec (.str sr b off) s = .next t → exec (.ldr dr b' off') (t.setPc p) = .next u →
      s.reg b' + sext6 off' = s.reg b + sext6 off → s.deviceAt (s.reg b + sext6 off) = none → u.reg dr = s.reg sr) ∧
    (∀ off off' : BitVec 9, exec (.sti sr off) s = .next t → exec (.ldi dr off') (t.setPc p) = .next u →
      s.deviceAt (p + sext9 off') = none → s.deviceAt (s.memRead (s.pc + sext9 off)).1 = none →
      Mem.read t.mem (p + sext9 off') = (s.memRead (s.pc + sext9 off)).1 → u.reg dr = s.reg sr)

/-- A store to the next instruction's address is what the next step fetches: ST with offset 0, no device at `pc'` (R80,
R291). -/
def Obligations.StoreToNextInstructionIsFetched : Prop :=
  ∀ (s t : State) (sr : Reg), Mem.wf s.mem = true → s.run = .running → s.deviceAt s.pc = none →
    exec (.st sr 0) s = .next t → step t = exec (decode (s.reg sr)) (t.setPc (s.pc + 1))

/-- Equal memories are equal data: two canonical memories that read alike are the same (the model's form; log 1). -/
def Obligations.CanonicalMemoriesThatReadAlikeAreEqual : Prop :=
  ∀ m m' : Mem, Mem.wf m = true → Mem.wf m' = true → (∀ a, Mem.read m a = Mem.read m' a) → m = m'

/-! TRAP, RTI and RES -/

/-- Each alias row's instruction is its base row's with its operand (R121, R172, R214 to R219; log 11). -/
def Obligations.AliasesAreTheirBaseRows : Prop :=
  ∀ s : State,
    exec .ret s = exec (.jmp 7) s ∧ exec .nop s = exec (.br 0 0) s ∧ exec .getc s = exec (.trap 0x20) s ∧
    exec .out s = exec (.trap 0x21) s ∧ exec .puts s = exec (.trap 0x22) s ∧ exec .inp s = exec (.trap 0x23) s ∧
    exec .putsp s = exec (.trap 0x24) s ∧ exec .halt s = exec (.trap 0x25) s

/-- GETC completes, when the stream supplies a byte (now or after the host has paused), with the byte in R0, COND following
it under TRAP_INPUT_SETS_FLAGS, nothing written, and the link in R7 (R213, R214; the flags are decision D11, log 17; the
vector 0x20 is D4, log 13). -/
def Obligations.GetcResult : Prop :=
  ∀ (i : Instr) (s : State) (c : Byte) (rest : List HostInput), i = .getc ∨ i = .trap 0x20 →
    s.SuppliesByte c rest →
    ∃ t, exec i s = .next t ∧ s.Traps t ∧ t.reg 0 = BitVec.ofNat 16 c.toNat ∧
      t.cond = (if s.cfg.trapInputSetsFlags = true then setcc (BitVec.ofNat 16 c.toNat) else s.cond) ∧
      t.inq = rest ∧ t.outq = s.outq ∧ t.run = s.run

/-- IN completes, when the stream supplies a byte, with the prompt and then the echo written and the byte in R0 as GETC's
(R213, R217; echo and flags are decisions D20 and D11, log 17, 24; the vector 0x23 is D4, log 13). -/
def Obligations.InResult : Prop :=
  ∀ (i : Instr) (s : State) (c : Byte) (rest : List HostInput), i = .inp ∨ i = .trap 0x23 →
    s.SuppliesByte c rest →
    ∃ t, exec i s = .next t ∧ s.Traps t ∧ t.reg 0 = BitVec.ofNat 16 c.toNat ∧
      t.cond = (if s.cfg.trapInputSetsFlags = true then setcc (BitVec.ofNat 16 c.toNat) else s.cond) ∧
      t.inq = rest ∧ t.outq = s.outq ++ s.cfg.inPrompt ++ [c] ∧ t.run = s.run

/-- GETC and IN on a closed stream that supplies no byte halt with InputExhausted, R0 and COND as they were, the link written
and IN's prompt too; on an open one they wait with the same effects (R213, R254, R271; log 2, 22, 25). -/
def Obligations.InputExhaustedOrWaiting : Prop :=
  ∀ s : State, s.SuppliesNone →
    (∃ t, exec .getc s = .next t ∧ s.Traps t ∧ t.reg 0 = s.reg 0 ∧ t.cond = s.cond ∧ t.inq = s.inq ∧ t.outq = s.outq ∧
      t.run = (if s.inEnd = .closed then .halted (some (.inputExhausted 0x20 (s.pc - 1))) else .waiting .getc)) ∧
    (∃ t, exec .inp s = .next t ∧ s.Traps t ∧ t.reg 0 = s.reg 0 ∧ t.cond = s.cond ∧ t.inq = s.inq ∧
      t.outq = s.outq ++ s.cfg.inPrompt ∧
      t.run = (if s.inEnd = .closed then .halted (some (.inputExhausted 0x23 (s.pc - 1))) else .waiting .inp))

/-- While the stream is open and supplies no byte, nothing changes; when it is closed the wait ends in InputExhausted; when a
byte is there the service completes with it, IN echoing it, and the core runs on (R271; log 2). R0 and the echo are R213's
and R217's, COND under TRAP_INPUT_SETS_FLAGS decision D11, the echo of the stored byte D20, the record R252 and D18 (log 17,
22, 24). -/
def Obligations.InputWait : Prop :=
  ∀ (s : State) (svc : InputService), s.run = .waiting svc →
    (s.SuppliesNone → s.inEnd ≠ .closed → step s = .next s) ∧
    (s.SuppliesNone → s.inEnd = .closed →
      step s = .next (s.raiseFatal (.inputExhausted svc.vector (s.pc - 1)))) ∧
    (∀ c rest, s.SuppliesByte c rest →
      ∃ t, step s = .next t ∧ t.run = .running ∧ t.reg 0 = BitVec.ofNat 16 c.toNat ∧ s.SameRegsBut 0 t ∧ t.pc = s.pc ∧
        t.cond = (if s.cfg.trapInputSetsFlags = true then setcc (BitVec.ofNat 16 c.toNat) else s.cond) ∧
        t.inq = rest ∧ t.outq = s.outq ++ (if svc = .inp then [c] else []) ∧ s.SameMem t ∧
        t.inEnd = s.inEnd ∧ t.image = s.image ∧ t.cfg = s.cfg)

/-- OUT completes with the low byte of R0 written, R0 and COND unchanged, the link in R7 (R215, R210; the vector 0x21 is
decision D4, log 13). -/
def Obligations.OutResult : Prop :=
  ∀ (i : Instr) (s : State), i = .out ∨ i = .trap 0x21 →
    ∃ t, exec i s = .next t ∧ s.Links s.pc { t with outq := s.outq } ∧
      t.outq = s.outq ++ [BitVec.ofNat 8 (s.reg 0).toNat]

/-- PUTS completes with one byte for each cell from the address in R0 up to the first zero cell, no device among them; R0,
COND, memory and the rest stay (R216, R210; decisions D4 and D13, log 13, 19). -/
def Obligations.PutsWritesTheString : Prop :=
  ∀ (i : Instr) (s : State) (l : List Word), i = .puts ∨ i = .trap 0x22 →
    (∀ j (h : j < l.length), s.deviceAt (s.reg 0 + BitVec.ofNat 16 j) = none ∧
      Mem.read s.mem (s.reg 0 + BitVec.ofNat 16 j) = l[j] ∧ l[j] ≠ 0) →
    s.deviceAt (s.reg 0 + BitVec.ofNat 16 l.length) = none →
    Mem.read s.mem (s.reg 0 + BitVec.ofNat 16 l.length) = 0 →
    ∃ t, exec i s = .next t ∧ s.Links s.pc { t with outq := s.outq } ∧
      t.outq = s.outq ++ l.map (fun v => BitVec.ofNat 8 v.toNat)

/-- PUTSP completes with two bytes, low then high, for each cell from the address in R0 up to the first zero byte, no device
among them; R0, COND, memory and the rest stay (R218, R210; decisions D4 and D13, log 13, 19). -/
def Obligations.PutspWritesThePackedString : Prop :=
  ∀ (i : Instr) (s : State) (l : List (Byte × Byte)) (last : List Byte), i = .putsp ∨ i = .trap 0x24 →
    (∀ j (h : j < l.length), s.deviceAt (s.reg 0 + BitVec.ofNat 16 j) = none ∧
      Mem.read s.mem (s.reg 0 + BitVec.ofNat 16 j) = l[j].2 ++ l[j].1 ∧ l[j].1 ≠ 0 ∧ l[j].2 ≠ 0) →
    s.deviceAt (s.reg 0 + BitVec.ofNat 16 l.length) = none →
    ((last = [] ∧ ∃ hi : Byte, Mem.read s.mem (s.reg 0 + BitVec.ofNat 16 l.length) = hi ++ 0#8) ∨
     (∃ lo : Byte, lo ≠ 0 ∧ last = [lo] ∧ Mem.read s.mem (s.reg 0 + BitVec.ofNat 16 l.length) = 0#8 ++ lo)) →
    ∃ t, exec i s = .next t ∧ s.Links s.pc { t with outq := s.outq } ∧
      t.outq = s.outq ++ l.flatMap (fun v => [v.1, v.2]) ++ last

/-- HALT completes with the message written and the core Halted without an error; R0 to R6, COND and memory stay, R7 and pc
hold `pc'` (R219, R210; the message is decision D15, log 20, the vector 0x25 decision D4, log 13). -/
def Obligations.HaltResult : Prop :=
  ∀ (i : Instr) (s : State), i = .halt ∨ i = .trap 0x25 →
    ∃ t, exec i s = .next t ∧ s.Links s.pc { t with outq := s.outq, run := s.run } ∧
      t.outq = s.outq ++ s.cfg.haltMessage ∧ t.run = .halted none

/-- A vector outside 0x20 to 0x25 halts with UnsupportedTrapVector under FATAL and does nothing under IGNORE, beyond the
link write in both (R220; record and policy are decisions D18, D19 and D23, log 22, 23, 26). -/
def Obligations.UnsupportedVectorResult : Prop :=
  ∀ (s : State) (v : BitVec 8), v < 0x20 ∨ 0x25 < v →
    ∃ t, exec (.trap v) s = .next t ∧ s.Links s.pc { t with run := s.run } ∧
      t.run = (if s.cfg.unsupportedPolicy = .fatal then .halted (some (.unsupportedTrapVector v (s.pc - 1))) else s.run)

/-- Every word with opcode 0xD is RES. It halts with UnsupportedOpcode under FATAL, its record holding 0xD, the word and its
address, and is a no-op under IGNORE; nothing else changes (R222; the record is decision D18, the policy D23; log 12, 22,
26). -/
def Obligations.ResResult : Prop :=
  ∀ (s : State) (w : Word), w.extractLsb' 12 4 = 0xD →
    decode w = .res (w.extractLsb' 0 12) ∧
    exec (.res (w.extractLsb' 0 12)) s = .next
      (if s.cfg.unsupportedPolicy = .fatal then s.raiseFatal (.unsupportedOpcode 0xD w (s.pc - 1)) else s)

/-- RTI is a no-op in any state (R221). -/
def Obligations.RtiIsANoOp : Prop :=
  ∀ s : State, exec .rti s = .next s

/-- No service writes pc, R1 to R6 or, but for the keyboard's own two cells under a scan, memory; only GETC and IN write R0;
every TRAP leaves the link in R7 (R212). -/
def Obligations.ServicesChangeOnlyTheirRow : Prop :=
  ∀ (v : BitVec 8) (s t : State), exec (.trap v) s = .next t →
    t.pc = s.pc ∧ t.reg 7 = s.pc ∧ (∀ q : Reg, q ≠ 0 → q ≠ 7 → t.reg q = s.reg q) ∧
    (v ≠ 0x20 → v ≠ 0x23 → t.reg 0 = s.reg 0 ∧ t.cond = s.cond) ∧
    (v ≠ 0x22 → v ≠ 0x24 → s.SameMem t) ∧
    (∀ b, b ≠ s.cfg.kbsrAddr → b ≠ s.cfg.kbdrAddr → Mem.read t.mem b = Mem.read s.mem b)

/-- Only the causes of R252 raise an error: RES and an unsupported vector, under FATAL, and GETC and IN on a closed stream;
and only HALT ends a run without one (R146; the policy is decision D23, log 26). -/
def Obligations.OnlyTheseCausesEndARun : Prop :=
  ∀ (i : Instr) (s t : State), exec i s = .next t →
    (s.Safe → ¬ t.Safe →
      (s.cfg.unsupportedPolicy = .fatal ∧ ((∃ low12, i = .res low12) ∨ ∃ v, i = .trap v ∧ supportedVector v = false)) ∨
      (s.inEnd = .closed ∧ i ∈ [.getc, .inp, .trap 0x20, .trap 0x23])) ∧
    (s.run = .running → t.run = .halted none → i ∈ [.halt, .trap 0x25])

/-- A scan that has met no terminator within the model's bound meets none within any, on the stream the state holds, an
endless one too: the fault `scanNeverEnds` is a hang of the hardware (R223; log 9, 33). -/
def Obligations.ScanFaultIsAHang : Prop :=
  ∀ (s : State) (p : Word), Mem.wf s.mem = true →
    (scanPuts (scanFuel s) p s = none → ∀ n, scanPuts n p s = none) ∧
    (scanPutsp (scanFuel s) p s = none → ∀ n, scanPutsp n p s = none)

/-- On the default platform exec answers a next state for every instruction, with every operand, in every state with
canonical memory, if the host does not have a byte ready at every moment to come, or the instruction scans no memory, or it
is PUTSP and KB_READY has a zero low byte. For GETC and IN without input that state is a waiting one (R271, log 2), for a
scan over memory without a terminator the one at the status cell (R74, R216, R218, R253; decisions D5, D6, D12, log 9, 14,
18, 33). -/
def Obligations.EveryInstructionCompletesOnTheDefaultPlatform : Prop :=
  ∀ (i : Instr) (s : State), Mem.wf s.mem = true → s.DefaultKeyboard →
    (s.NotEndlesslyReady ∨ i ∉ [.puts, .putsp, .trap 0x22, .trap 0x24] ∨
      (i ∈ [.putsp, .trap 0x24] ∧ lowByte s.cfg.kbReady = 0 ∧ s.cfg.kbsrAddr ≠ s.cfg.kbdrAddr)) →
    ∃ t, exec i s = .next t

/-- COND is written by ADD, AND, NOT, LD, LDI, LDR and LEA, from the value in DR, and by GETC and IN; every other
instruction leaves it (R38). -/
def Obligations.WritersOfCond : Prop :=
  ∀ (s t : State) (dr a b : Reg) (imm5 : BitVec 5) (off6 : BitVec 6) (off9 : BitVec 9) (off11 : BitVec 11)
    (mask : BitVec 3) (v : BitVec 8) (low12 : BitVec 12) (i : Instr), exec i s = .next t →
    (i ∈ [.add dr a b, .addImm dr a imm5, .and dr a b, .andImm dr a imm5, .not dr a, .ld dr off9, .ldi dr off9,
          .ldr dr a off6, .lea dr off9] → t.cond = setcc (t.reg dr)) ∧
    (i ∈ [.st a off9, .sti a off9, .str a b off6, .br mask off9, .nop, .jmp a, .ret, .jsr off11, .jsrr a, .out, .puts,
          .putsp, .halt, .rti, .res low12] → t.cond = s.cond) ∧
    (i = .trap v → v ≠ 0x20 → v ≠ 0x23 → t.cond = s.cond) ∧
    (i ∈ [.getc, .inp, .trap 0x20, .trap 0x23] → t.cond = s.cond ∨ t.cond = setcc (t.reg 0))

/-! The step, reset and boot -/

/-- Fetch reads the word at pc with a device-activating read and increments pc, wrapping; no flag changes (R141). -/
def Obligations.FetchRule : Prop :=
  ∀ s : State,
    s.fetch.1 = (s.memRead s.pc).1 ∧ s.fetch.2 = (s.memRead s.pc).2.setPc (s.pc + 1) ∧ s.fetch.2.cond = s.cond ∧
    s.fetch.2.pc = s.pc + 1 ∧
    (s.deviceAt s.pc = none → s.fetch = (Mem.read s.mem s.pc, s.setPc (s.pc + 1)))

/-- A step of a running core is `exec` of the instruction that the fetched word decodes to, on the state after the fetch:
pc is `pc'`, and where no device is at pc nothing else has changed (R143). -/
def Obligations.StepRunsTheDecodedInstruction : Prop :=
  ∀ (s : State) (i : Instr), s.run = .running →
    (decode (s.memRead s.pc).1 = i → step s = exec i ((s.memRead s.pc).2.setPc (s.pc + 1))) ∧
    (s.deviceAt s.pc = none → decode (Mem.read s.mem s.pc) = i → step s = exec i (s.setPc (s.pc + 1)))

/-- The host's placed word is the next instruction, from every state with canonical memory (log 8). -/
def Obligations.PlacedWordRunsNext : Prop :=
  ∀ (s : State) (w : Word), Mem.wf s.mem = true →
    step (s.withFetchWord 16 w.toNat) = exec (decode w) ((s.withFetchWord 16 w.toNat).setPc (s.pc + 1))

/-- A Halted core takes no step (R140). -/
def Obligations.HaltedTakesNoStep : Prop :=
  ∀ (s : State) (err : Option FatalErr), s.run = .halted err → step s = .fault .halted

/-- After reset: memory zero, one keyboard registered, output empty, not yet Running, R0 to R7 zero and COND Z, which are the
spec's decisions D7 and D8 (R280; log 4, 5); pc zero and no input are the model's choice (log 3, 7). -/
def Obligations.ResetState : Prop :=
  (∀ a, Mem.read State.reset.mem a = 0) ∧ State.reset.cfg.devices = [(State.reset.cfg.kbsrAddr, .keyboard)] ∧
  State.reset.outq = [] ∧ State.reset.run = .constructed ∧ (∀ q, State.reset.reg q = 0) ∧ State.reset.cond = .z ∧
  State.reset.pc = 0 ∧ State.reset.inq = [] ∧ State.reset.inEnd = .ongoing []

/-- The invariant holds after reset. -/
def Obligations.ResetIsLegal : Prop := State.reset.Inv

/-- Every step keeps the invariant: memory canonical, a waiting or normally halted core's R7 holding `pc'`, and an error
record that fits the instruction before pc (R210, R252, R254). -/
def Obligations.StepKeepsTheInvariant : Prop :=
  ∀ s t : State, s.Inv → step s = .next t → t.Inv

/-- No step changes the parameters, the device registry among them (R46). -/
def Obligations.StepKeepsTheParameters : Prop :=
  ∀ s t : State, step s = .next t → t.cfg = s.cfg

/-- A step only appends to the output and only consumes the input from its front, the cycle of an open stream following what is
listed; it never changes how the stream goes on (R47; log 33). -/
def Obligations.StepMovesTheStreamsForward : Prop :=
  ∀ s t : State, step s = .next t →
    (∃ l, t.outq = s.outq ++ l) ∧ s.ConsumesInput t

/-- From a running core a step ends Running, waiting for input, or Halted; it never goes back before boot (R45, R146). -/
def Obligations.StepNeverUndoesBoot : Prop :=
  ∀ s t : State, step s = .next t → t.run ≠ .constructed ∧ (t.image = s.image ∨ t.image = none)

/-- The next pc of every instruction that completes (R176; RES and TRAP stay at `pc'`, JSRR's order is decision D10). -/
def Obligations.NextPcOfEveryInstruction : Prop :=
  ∀ (i : Instr) (s t : State), exec i s = .next t →
    t.pc = match i with
      | .br mask off9 => if branchTaken mask s.cond = true then s.pc + sext9 off9 else s.pc
      | .jmp base => s.reg base
      | .ret => s.reg 7
      | .jsr off11 => s.pc + sext11 off11
      | .jsrr base => if base = 7 ∧ s.cfg.jsrrBaseAfterLink = true then s.pc else s.reg base
      | _ => s.pc

/-- Boot loads a well-formed image: its words stand in consecutive cells from its start address, every other cell is as it
was, pc is the start address, the core runs, and nothing else changes (R82, R281; the edges are decision D17, log 21). -/
def Obligations.BootLoadsTheImage : Prop :=
  ∀ (s : State) (b0 b1 : Byte) (ws : List (Byte × Byte)), s.run = .constructed → Mem.wf s.mem = true →
    s.image = some (b0 :: b1 :: ws.flatMap (fun w => [w.1, w.2])) → ws ≠ [] →
    b0.toNat * 256 + b1.toNat + ws.length ≤ 65536 →
    ∃ t, step s = .next t ∧ t.pc = BitVec.ofNat 16 (b0.toNat * 256 + b1.toNat) ∧ t.run = .running ∧ t.image = none ∧
      (∀ k (h : k < ws.length), Mem.read t.mem (BitVec.ofNat 16 (b0.toNat * 256 + b1.toNat + k)) =
        BitVec.ofNat 16 (ws[k].1.toNat * 256 + ws[k].2.toNat)) ∧
      (∀ a : Word, a.toNat < b0.toNat * 256 + b1.toNat ∨ b0.toNat * 256 + b1.toNat + ws.length ≤ a.toNat →
        Mem.read t.mem a = Mem.read s.mem a) ∧
      s.SameRegs t ∧ t.cond = s.cond ∧ t.inq = s.inq ∧ t.inEnd = s.inEnd ∧ t.outq = s.outq ∧ t.cfg = s.cfg

/-- A malformed image (shorter than two words, of an odd byte count, or running past 0xFFFF) is rejected before the core is
ever Running, and without an image no step is enabled (R82, R83; the edges are decision D17, log 21). -/
def Obligations.BootRejectsMalformedImages : Prop :=
  ∀ (s : State), s.run = .constructed →
    (∀ bytes, s.image = some bytes → (bytes.length < 4 ∨ bytes.length % 2 = 1) → step s = .fault .malformedImage) ∧
    (∀ b0 b1 body, s.image = some (b0 :: b1 :: body) → 65536 < b0.toNat * 256 + b1.toNat + body.length / 2 →
      step s = .fault .malformedImage) ∧
    (s.image = none → step s = .fault .noImage)

/-- The numeric codes of the four errors and the kind of each record (R252; the numbers are decision D18, log 22). -/
def Obligations.ErrorCodes : Prop :=
  ErrorKind.code .malformedImage = 0 ∧
  (∀ op w a, (FatalErr.kind (.unsupportedOpcode op w a)).code = 1) ∧
  (∀ v a, (FatalErr.kind (.unsupportedTrapVector v a)).code = 2) ∧
  (∀ v a, (FatalErr.kind (.inputExhausted v a)).code = 3)

/-- PUTS and PUTSP never complete when no cell of a full cycle has their terminator, and PUTS does not on the default
platform when every moment has a byte ready, none zero, and no other cell is zero: the activation refills the status cell
(R223, R74; decisions D6, D12; log 9, 33). -/
def Obligations.UnterminatedScansNeverEnd : Prop :=
  ∀ (i : Instr) (s : State), Mem.wf s.mem = true →
    (i = .puts ∨ i = .trap 0x22 → (∀ a, s.deviceAt a = none ∧ Mem.read s.mem a ≠ 0) → exec i s = .fault .scanNeverEnds) ∧
    (i = .putsp ∨ i = .trap 0x24 →
      (∀ a, s.deviceAt a = none ∧ lowByte (Mem.read s.mem a) ≠ 0 ∧ highByte (Mem.read s.mem a) ≠ 0) →
      exec i s = .fault .scanNeverEnds) ∧
    (i = .puts ∨ i = .trap 0x22 → s.DefaultKeyboard → s.cfg.kbsrAddr ≠ s.cfg.kbdrAddr → s.cfg.kbReady ≠ 0 →
      s.inEnd.cycle ≠ [] → (∀ e ∈ s.inq ++ s.inEnd.cycle, ∃ c : Byte, c ≠ 0 ∧ e = .byte c) →
      (∀ a, a ≠ s.cfg.kbsrAddr → Mem.read s.mem a ≠ 0) → exec i s = .fault .scanNeverEnds)
end

