-- ==== Sys2Proof/Laws/Decode.lean ====
section
/-! SUPPORT. The fields of a word: register numbers and their bits. -/

namespace Sys2Proof

/-- A register number fits its three bits. -/
@[simp] theorem regBits_toNat (r : Reg) : (regBits r).toNat = r.val := by
  simp [regBits]

/-- A register field whose bits are a register's number reads that register. -/
theorem regField_of_bits (w : Word) (lo : Nat) (r : Reg) (h : w.extractLsb' lo 3 = regBits r) : regField w lo = r := by
  apply Fin.ext; simp [regField, h]

/-- The bits of a register field are that register's number. -/
theorem regBits_regField (w : Word) (lo : Nat) : regBits (regField w lo) = w.extractLsb' lo 3 := by
  apply BitVec.eq_of_toNat_eq; simp [regField]

end Sys2Proof
end

