-- ==== Sys2Proof/Laws/Memory.lean ====
section
/-! SUPPORT. Memory: read after write, and every memory operation keeps the canonical form. -/

namespace Sys2Proof.Machine

/-- The canonical form, taken apart at its first cell. -/
theorem Mem.wf_cons (k : Nat) (x : Word) (m : Mem) :
    Mem.wf ((k, x) :: m) = true ↔ k < 65536 ∧ x ≠ 0 ∧ (∀ c ∈ m, k < c.1) ∧ Mem.wf m = true := by
  simp [Mem.wf, and_assoc]

/-- A cell below every listed address reads zero. -/
theorem Mem.read_of_lt (m : Mem) (a : Word) (h : ∀ c ∈ m, a.toNat < c.1) : Mem.read m a = 0 := by
  induction m with
  | nil => rfl
  | cons c m ih =>
    obtain ⟨k, x⟩ := c
    have hk := h (k, x) (List.mem_cons_self ..)
    simp only [Mem.read]
    rw [if_neg (by omega)]
    exact ih fun c hc => h c (List.mem_cons_of_mem _ hc)

/-- Putting the cell of address `a` first makes it read `v`, where no later cell has an address below or at `a`. -/
theorem Mem.read_cons_same (m : Mem) (a v : Word) (h : ∀ c ∈ m, a.toNat < c.1) :
    Mem.read (Mem.cons a.toNat v m) a = v := by
  unfold Mem.cons
  split
  · next hv => rw [hv]; exact Mem.read_of_lt m a h
  · simp [Mem.read]

/-- Putting the cell of another address first changes no reading of `b`. -/
theorem Mem.read_cons_other (m : Mem) (a b v : Word) (h : b ≠ a) : Mem.read (Mem.cons a.toNat v m) b = Mem.read m b := by
  have hne : b.toNat ≠ a.toNat := fun e => h (BitVec.eq_of_toNat_eq e)
  unfold Mem.cons
  split
  · rfl
  · simp [Mem.read, hne]

/-- A write is read back (20_memory.md R64). -/
theorem Mem.read_write_same (m : Mem) (a v : Word) (h : Mem.wf m = true) : Mem.read (Mem.write m a v) a = v := by
  induction m with
  | nil => exact Mem.read_cons_same [] a v (by simp)
  | cons c m ih =>
    obtain ⟨k, x⟩ := c
    obtain ⟨_, _, hall, hm⟩ := (Mem.wf_cons k x m).1 h
    simp only [Mem.write]
    split
    · next hlt =>
      refine Mem.read_cons_same _ a v fun c hc => ?_
      rcases List.mem_cons.1 hc with rfl | hc
      · exact hlt
      · exact Nat.lt_trans hlt (hall c hc)
    · split
      · next heq => exact Mem.read_cons_same m a v fun c hc => heq ▸ hall c hc
      · next hne => simp only [Mem.read, if_neg hne]; exact ih hm

/-- A write changes no other cell (20_memory.md R71). -/
theorem Mem.read_write_other (m : Mem) (a b v : Word) (h : b ≠ a) : Mem.read (Mem.write m a v) b = Mem.read m b := by
  have hne : b.toNat ≠ a.toNat := fun e => h (BitVec.eq_of_toNat_eq e)
  induction m with
  | nil => exact Mem.read_cons_other [] a b v h
  | cons c m ih =>
    obtain ⟨k, x⟩ := c
    simp only [Mem.write]
    split
    · exact Mem.read_cons_other _ a b v h
    · split
      · next heq => rw [Mem.read_cons_other m a b v h]; simp [Mem.read, ← heq, hne]
      · simp only [Mem.read, ih]

/-- The cells of a write are the old ones and the written one. -/
theorem Mem.mem_write (m : Mem) (a v : Word) (c : Nat × Word) (h : c ∈ Mem.write m a v) : c ∈ m ∨ c.1 = a.toNat := by
  induction m with
  | nil =>
    simp only [Mem.write, Mem.cons] at h
    split at h
    · simp at h
    · simp only [List.mem_singleton] at h; exact .inr (by rw [h])
  | cons d m ih =>
    obtain ⟨k, x⟩ := d
    simp only [Mem.write, Mem.cons] at h
    split at h
    · split at h
      · exact .inl h
      · rcases List.mem_cons.1 h with rfl | h
        · exact .inr rfl
        · exact .inl h
    · split at h
      · split at h
        · exact .inl (List.mem_cons_of_mem _ h)
        · rcases List.mem_cons.1 h with rfl | h
          · exact .inr rfl
          · exact .inl (List.mem_cons_of_mem _ h)
      · rcases List.mem_cons.1 h with rfl | h
        · exact .inl (List.mem_cons_self ..)
        · exact (ih h).imp_left (List.mem_cons_of_mem _)

/-- Putting a cell before cells of higher addresses keeps the canonical form. -/
theorem Mem.wf_cons_cell (m : Mem) (a v : Word) (hm : Mem.wf m = true) (h : ∀ c ∈ m, a.toNat < c.1) :
    Mem.wf (Mem.cons a.toNat v m) = true := by
  unfold Mem.cons
  split
  · exact hm
  · next hv => exact (Mem.wf_cons _ _ _).2 ⟨a.isLt, hv, h, hm⟩

/-- A write keeps the canonical form. -/
theorem Mem.wf_write (m : Mem) (a v : Word) (h : Mem.wf m = true) : Mem.wf (Mem.write m a v) = true := by
  induction m with
  | nil => exact Mem.wf_cons_cell [] a v rfl (by simp)
  | cons c m ih =>
    obtain ⟨k, x⟩ := c
    obtain ⟨hk, hx, hall, hm⟩ := (Mem.wf_cons k x m).1 h
    simp only [Mem.write]
    split
    · next hlt =>
      refine Mem.wf_cons_cell _ a v h fun c hc => ?_
      rcases List.mem_cons.1 hc with rfl | hc
      · exact hlt
      · exact Nat.lt_trans hlt (hall c hc)
    · split
      · next heq => exact Mem.wf_cons_cell m a v hm fun c hc => heq ▸ hall c hc
      · next hlt hne =>
        refine (Mem.wf_cons _ _ _).2 ⟨hk, hx, fun c hc => ?_, ih hm⟩
        rcases Mem.mem_write m a v c hc with hc | hc
        · exact hall c hc
        · omega

/-- The loader keeps the canonical form. -/
theorem Mem.wf_loadWords (a : Word) (ws : List Word) (m : Mem) (h : Mem.wf m = true) :
    Mem.wf (loadWords a ws m) = true := by
  induction ws generalizing a m with
  | nil => exact h
  | cons w ws ih => exact ih (a + 1) _ (Mem.wf_write m a w h)

/-- A loaded image's memory is canonical. -/
theorem Mem.wf_loadImage {bytes : List Byte} {m m' : Mem} {origin : Word} (h : loadImage bytes m = some (origin, m'))
    (hm : Mem.wf m = true) : Mem.wf m' = true := by
  match bytes with
  | [] => simp [loadImage] at h
  | [_] => simp [loadImage] at h
  | b0 :: b1 :: body =>
    simp only [loadImage] at h
    split at h
    · simp at h
    · split at h
      · simp at h
      · simp only [Option.some.injEq, Prod.mk.injEq] at h
        rw [← h.2]
        exact Mem.wf_loadWords _ _ _ hm

end Sys2Proof.Machine
end

