-- ==== Sys2Proof/Laws/State.lean ====
section
/-! SUPPORT. What each named update of the state does to each field, and to the reading of a register. -/

namespace Sys2Proof.Machine

@[simp] theorem State.setRegRaw_regs (s : State) (r : Reg) (v : Word) : (s.setRegRaw r v).regs = s.regs.set r.val v r.isLt := rfl
@[simp] theorem State.setRegRaw_pc (s : State) (r : Reg) (v : Word) : (s.setRegRaw r v).pc = s.pc := rfl
@[simp] theorem State.setRegRaw_cond (s : State) (r : Reg) (v : Word) : (s.setRegRaw r v).cond = s.cond := rfl
@[simp] theorem State.setRegRaw_mem (s : State) (r : Reg) (v : Word) : (s.setRegRaw r v).mem = s.mem := rfl
@[simp] theorem State.setRegRaw_run (s : State) (r : Reg) (v : Word) : (s.setRegRaw r v).run = s.run := rfl
@[simp] theorem State.setRegRaw_inq (s : State) (r : Reg) (v : Word) : (s.setRegRaw r v).inq = s.inq := rfl
@[simp] theorem State.setRegRaw_inEnd (s : State) (r : Reg) (v : Word) : (s.setRegRaw r v).inEnd = s.inEnd := rfl
@[simp] theorem State.setRegRaw_outq (s : State) (r : Reg) (v : Word) : (s.setRegRaw r v).outq = s.outq := rfl
@[simp] theorem State.setRegRaw_image (s : State) (r : Reg) (v : Word) : (s.setRegRaw r v).image = s.image := rfl
@[simp] theorem State.setRegRaw_cfg (s : State) (r : Reg) (v : Word) : (s.setRegRaw r v).cfg = s.cfg := rfl
@[simp] theorem State.setRegRaw_deviceAt (s : State) (r : Reg) (v : Word) (d : Word) : (s.setRegRaw r v).deviceAt d = s.deviceAt d := rfl
@[simp] theorem State.setRegRaw_upcoming (s : State) (r : Reg) (v : Word) : (s.setRegRaw r v).upcoming = s.upcoming := rfl
@[simp] theorem State.setRegRaw_takeByte (s : State) (r : Reg) (v : Word) : (s.setRegRaw r v).takeByte = s.takeByte := rfl

@[simp] theorem State.setReg_regs (s : State) (r : Reg) (v : Word) : (s.setReg r v).regs = s.regs.set r.val v r.isLt := rfl
@[simp] theorem State.setReg_pc (s : State) (r : Reg) (v : Word) : (s.setReg r v).pc = s.pc := rfl
@[simp] theorem State.setReg_cond (s : State) (r : Reg) (v : Word) : (s.setReg r v).cond = setcc v := rfl
@[simp] theorem State.setReg_mem (s : State) (r : Reg) (v : Word) : (s.setReg r v).mem = s.mem := rfl
@[simp] theorem State.setReg_run (s : State) (r : Reg) (v : Word) : (s.setReg r v).run = s.run := rfl
@[simp] theorem State.setReg_inq (s : State) (r : Reg) (v : Word) : (s.setReg r v).inq = s.inq := rfl
@[simp] theorem State.setReg_inEnd (s : State) (r : Reg) (v : Word) : (s.setReg r v).inEnd = s.inEnd := rfl
@[simp] theorem State.setReg_outq (s : State) (r : Reg) (v : Word) : (s.setReg r v).outq = s.outq := rfl
@[simp] theorem State.setReg_image (s : State) (r : Reg) (v : Word) : (s.setReg r v).image = s.image := rfl
@[simp] theorem State.setReg_cfg (s : State) (r : Reg) (v : Word) : (s.setReg r v).cfg = s.cfg := rfl
@[simp] theorem State.setReg_deviceAt (s : State) (r : Reg) (v : Word) (d : Word) : (s.setReg r v).deviceAt d = s.deviceAt d := rfl
@[simp] theorem State.setReg_upcoming (s : State) (r : Reg) (v : Word) : (s.setReg r v).upcoming = s.upcoming := rfl
@[simp] theorem State.setReg_takeByte (s : State) (r : Reg) (v : Word) : (s.setReg r v).takeByte = s.takeByte := rfl

@[simp] theorem State.setPc_regs (s : State) (t : Word) : (s.setPc t).regs = s.regs := rfl
@[simp] theorem State.setPc_pc (s : State) (t : Word) : (s.setPc t).pc = t := rfl
@[simp] theorem State.setPc_cond (s : State) (t : Word) : (s.setPc t).cond = s.cond := rfl
@[simp] theorem State.setPc_mem (s : State) (t : Word) : (s.setPc t).mem = s.mem := rfl
@[simp] theorem State.setPc_run (s : State) (t : Word) : (s.setPc t).run = s.run := rfl
@[simp] theorem State.setPc_inq (s : State) (t : Word) : (s.setPc t).inq = s.inq := rfl
@[simp] theorem State.setPc_inEnd (s : State) (t : Word) : (s.setPc t).inEnd = s.inEnd := rfl
@[simp] theorem State.setPc_outq (s : State) (t : Word) : (s.setPc t).outq = s.outq := rfl
@[simp] theorem State.setPc_image (s : State) (t : Word) : (s.setPc t).image = s.image := rfl
@[simp] theorem State.setPc_cfg (s : State) (t : Word) : (s.setPc t).cfg = s.cfg := rfl
@[simp] theorem State.setPc_reg (s : State) (t : Word) (q : Reg) : (s.setPc t).reg q = s.reg q := rfl
@[simp] theorem State.setPc_deviceAt (s : State) (t : Word) (d : Word) : (s.setPc t).deviceAt d = s.deviceAt d := rfl
@[simp] theorem State.setPc_upcoming (s : State) (t : Word) : (s.setPc t).upcoming = s.upcoming := rfl
@[simp] theorem State.setPc_takeByte (s : State) (t : Word) : (s.setPc t).takeByte = s.takeByte := rfl

@[simp] theorem State.link_regs (s : State) : (s.link).regs = s.regs.set 7 s.pc := rfl
@[simp] theorem State.link_pc (s : State) : (s.link).pc = s.pc := rfl
@[simp] theorem State.link_cond (s : State) : (s.link).cond = s.cond := rfl
@[simp] theorem State.link_mem (s : State) : (s.link).mem = s.mem := rfl
@[simp] theorem State.link_run (s : State) : (s.link).run = s.run := rfl
@[simp] theorem State.link_inq (s : State) : (s.link).inq = s.inq := rfl
@[simp] theorem State.link_inEnd (s : State) : (s.link).inEnd = s.inEnd := rfl
@[simp] theorem State.link_outq (s : State) : (s.link).outq = s.outq := rfl
@[simp] theorem State.link_image (s : State) : (s.link).image = s.image := rfl
@[simp] theorem State.link_cfg (s : State) : (s.link).cfg = s.cfg := rfl
@[simp] theorem State.link_deviceAt (s : State) (d : Word) : (s.link).deviceAt d = s.deviceAt d := rfl
@[simp] theorem State.link_upcoming (s : State) : (s.link).upcoming = s.upcoming := rfl
@[simp] theorem State.link_takeByte (s : State) : (s.link).takeByte = s.takeByte := rfl

@[simp] theorem State.memWrite_regs (s : State) (a v : Word) : (s.memWrite a v).regs = s.regs := rfl
@[simp] theorem State.memWrite_pc (s : State) (a v : Word) : (s.memWrite a v).pc = s.pc := rfl
@[simp] theorem State.memWrite_cond (s : State) (a v : Word) : (s.memWrite a v).cond = s.cond := rfl
@[simp] theorem State.memWrite_mem (s : State) (a v : Word) : (s.memWrite a v).mem = Mem.write s.mem a v := rfl
@[simp] theorem State.memWrite_run (s : State) (a v : Word) : (s.memWrite a v).run = s.run := rfl
@[simp] theorem State.memWrite_inq (s : State) (a v : Word) : (s.memWrite a v).inq = s.inq := rfl
@[simp] theorem State.memWrite_inEnd (s : State) (a v : Word) : (s.memWrite a v).inEnd = s.inEnd := rfl
@[simp] theorem State.memWrite_outq (s : State) (a v : Word) : (s.memWrite a v).outq = s.outq := rfl
@[simp] theorem State.memWrite_image (s : State) (a v : Word) : (s.memWrite a v).image = s.image := rfl
@[simp] theorem State.memWrite_cfg (s : State) (a v : Word) : (s.memWrite a v).cfg = s.cfg := rfl
@[simp] theorem State.memWrite_reg (s : State) (a v : Word) (q : Reg) : (s.memWrite a v).reg q = s.reg q := rfl
@[simp] theorem State.memWrite_deviceAt (s : State) (a v : Word) (d : Word) : (s.memWrite a v).deviceAt d = s.deviceAt d := rfl
@[simp] theorem State.memWrite_upcoming (s : State) (a v : Word) : (s.memWrite a v).upcoming = s.upcoming := rfl
@[simp] theorem State.memWrite_takeByte (s : State) (a v : Word) : (s.memWrite a v).takeByte = s.takeByte := rfl

@[simp] theorem State.out_regs (s : State) (b : Byte) : (s.out b).regs = s.regs := rfl
@[simp] theorem State.out_pc (s : State) (b : Byte) : (s.out b).pc = s.pc := rfl
@[simp] theorem State.out_cond (s : State) (b : Byte) : (s.out b).cond = s.cond := rfl
@[simp] theorem State.out_mem (s : State) (b : Byte) : (s.out b).mem = s.mem := rfl
@[simp] theorem State.out_run (s : State) (b : Byte) : (s.out b).run = s.run := rfl
@[simp] theorem State.out_inq (s : State) (b : Byte) : (s.out b).inq = s.inq := rfl
@[simp] theorem State.out_inEnd (s : State) (b : Byte) : (s.out b).inEnd = s.inEnd := rfl
@[simp] theorem State.out_outq (s : State) (b : Byte) : (s.out b).outq = s.outq ++ [b] := rfl
@[simp] theorem State.out_image (s : State) (b : Byte) : (s.out b).image = s.image := rfl
@[simp] theorem State.out_cfg (s : State) (b : Byte) : (s.out b).cfg = s.cfg := rfl
@[simp] theorem State.out_reg (s : State) (b : Byte) (q : Reg) : (s.out b).reg q = s.reg q := rfl
@[simp] theorem State.out_deviceAt (s : State) (b : Byte) (d : Word) : (s.out b).deviceAt d = s.deviceAt d := rfl
@[simp] theorem State.out_upcoming (s : State) (b : Byte) : (s.out b).upcoming = s.upcoming := rfl
@[simp] theorem State.out_takeByte (s : State) (b : Byte) : (s.out b).takeByte = s.takeByte := rfl

@[simp] theorem State.outAll_regs (s : State) (bs : List Byte) : (s.outAll bs).regs = s.regs := rfl
@[simp] theorem State.outAll_pc (s : State) (bs : List Byte) : (s.outAll bs).pc = s.pc := rfl
@[simp] theorem State.outAll_cond (s : State) (bs : List Byte) : (s.outAll bs).cond = s.cond := rfl
@[simp] theorem State.outAll_mem (s : State) (bs : List Byte) : (s.outAll bs).mem = s.mem := rfl
@[simp] theorem State.outAll_run (s : State) (bs : List Byte) : (s.outAll bs).run = s.run := rfl
@[simp] theorem State.outAll_inq (s : State) (bs : List Byte) : (s.outAll bs).inq = s.inq := rfl
@[simp] theorem State.outAll_inEnd (s : State) (bs : List Byte) : (s.outAll bs).inEnd = s.inEnd := rfl
@[simp] theorem State.outAll_outq (s : State) (bs : List Byte) : (s.outAll bs).outq = s.outq ++ bs := rfl
@[simp] theorem State.outAll_image (s : State) (bs : List Byte) : (s.outAll bs).image = s.image := rfl
@[simp] theorem State.outAll_cfg (s : State) (bs : List Byte) : (s.outAll bs).cfg = s.cfg := rfl
@[simp] theorem State.outAll_reg (s : State) (bs : List Byte) (q : Reg) : (s.outAll bs).reg q = s.reg q := rfl
@[simp] theorem State.outAll_deviceAt (s : State) (bs : List Byte) (d : Word) : (s.outAll bs).deviceAt d = s.deviceAt d := rfl
@[simp] theorem State.outAll_upcoming (s : State) (bs : List Byte) : (s.outAll bs).upcoming = s.upcoming := rfl
@[simp] theorem State.outAll_takeByte (s : State) (bs : List Byte) : (s.outAll bs).takeByte = s.takeByte := rfl

@[simp] theorem State.raiseFatal_regs (s : State) (e : FatalErr) : (s.raiseFatal e).regs = s.regs := rfl
@[simp] theorem State.raiseFatal_pc (s : State) (e : FatalErr) : (s.raiseFatal e).pc = s.pc := rfl
@[simp] theorem State.raiseFatal_cond (s : State) (e : FatalErr) : (s.raiseFatal e).cond = s.cond := rfl
@[simp] theorem State.raiseFatal_mem (s : State) (e : FatalErr) : (s.raiseFatal e).mem = s.mem := rfl
@[simp] theorem State.raiseFatal_run (s : State) (e : FatalErr) : (s.raiseFatal e).run = .halted (some e) := rfl
@[simp] theorem State.raiseFatal_inq (s : State) (e : FatalErr) : (s.raiseFatal e).inq = s.inq := rfl
@[simp] theorem State.raiseFatal_inEnd (s : State) (e : FatalErr) : (s.raiseFatal e).inEnd = s.inEnd := rfl
@[simp] theorem State.raiseFatal_outq (s : State) (e : FatalErr) : (s.raiseFatal e).outq = s.outq := rfl
@[simp] theorem State.raiseFatal_image (s : State) (e : FatalErr) : (s.raiseFatal e).image = s.image := rfl
@[simp] theorem State.raiseFatal_cfg (s : State) (e : FatalErr) : (s.raiseFatal e).cfg = s.cfg := rfl
@[simp] theorem State.raiseFatal_reg (s : State) (e : FatalErr) (q : Reg) : (s.raiseFatal e).reg q = s.reg q := rfl
@[simp] theorem State.raiseFatal_deviceAt (s : State) (e : FatalErr) (d : Word) : (s.raiseFatal e).deviceAt d = s.deviceAt d := rfl
@[simp] theorem State.raiseFatal_upcoming (s : State) (e : FatalErr) : (s.raiseFatal e).upcoming = s.upcoming := rfl
@[simp] theorem State.raiseFatal_takeByte (s : State) (e : FatalErr) : (s.raiseFatal e).takeByte = s.takeByte := rfl

@[simp] theorem State.halt_regs (s : State) : (s.halt).regs = s.regs := rfl
@[simp] theorem State.halt_pc (s : State) : (s.halt).pc = s.pc := rfl
@[simp] theorem State.halt_cond (s : State) : (s.halt).cond = s.cond := rfl
@[simp] theorem State.halt_mem (s : State) : (s.halt).mem = s.mem := rfl
@[simp] theorem State.halt_run (s : State) : (s.halt).run = .halted none := rfl
@[simp] theorem State.halt_inq (s : State) : (s.halt).inq = s.inq := rfl
@[simp] theorem State.halt_inEnd (s : State) : (s.halt).inEnd = s.inEnd := rfl
@[simp] theorem State.halt_outq (s : State) : (s.halt).outq = s.outq := rfl
@[simp] theorem State.halt_image (s : State) : (s.halt).image = s.image := rfl
@[simp] theorem State.halt_cfg (s : State) : (s.halt).cfg = s.cfg := rfl
@[simp] theorem State.halt_reg (s : State) (q : Reg) : (s.halt).reg q = s.reg q := rfl
@[simp] theorem State.halt_deviceAt (s : State) (d : Word) : (s.halt).deviceAt d = s.deviceAt d := rfl
@[simp] theorem State.halt_upcoming (s : State) : (s.halt).upcoming = s.upcoming := rfl
@[simp] theorem State.halt_takeByte (s : State) : (s.halt).takeByte = s.takeByte := rfl

/-- A raw register write is read back, and changes no other register. -/
@[simp] theorem State.setRegRaw_reg (s : State) (r : Reg) (v : Word) (q : Reg) :
    (s.setRegRaw r v).reg q = if q = r then v else s.reg q := by
  simp only [State.reg, State.setRegRaw, Vector.getElem_set, Fin.ext_iff, eq_comm]

/-- A flag-updating register write is read back, and changes no other register. -/
@[simp] theorem State.setReg_reg (s : State) (r : Reg) (v : Word) (q : Reg) :
    (s.setReg r v).reg q = if q = r then v else s.reg q := State.setRegRaw_reg s r v q

/-- The link write leaves `pc'` in R7 and changes no other register. -/
@[simp] theorem State.link_reg (s : State) (q : Reg) : s.link.reg q = if q = 7 then s.pc else s.reg q :=
  State.setRegRaw_reg s 7 s.pc q

/-- Registers are determined by what they read as. -/
theorem State.regs_ext {s t : State} (h : ∀ q, s.reg q = t.reg q) : s.regs = t.regs :=
  Vector.ext fun i hi => h ⟨i, hi⟩

/-- A state is determined by its fields. -/
theorem State.eq_of_fields {s t : State} (hregs : ∀ q, s.reg q = t.reg q) (hpc : s.pc = t.pc) (hcond : s.cond = t.cond)
    (hmem : s.mem = t.mem) (hrun : s.run = t.run) (hinq : s.inq = t.inq) (hend : s.inEnd = t.inEnd)
    (houtq : s.outq = t.outq) (himage : s.image = t.image) (hcfg : s.cfg = t.cfg) : s = t := by
  have hr := State.regs_ext hregs
  cases s; cases t; simp_all

end Sys2Proof.Machine
end

