-- ==== Sys2Proof/Laws/Device.lean ====
section
/-! SUPPORT. What a read can do to the state: activate the keyboard once, or nothing. -/

namespace Sys2Proof.Machine

/-- A read of an address with no device changes nothing (20_memory.md R63, R71). -/
theorem State.afterRead_plain (s : State) (a : Word) (h : s.deviceAt a = none) : s.afterRead a = s := by
  simp [State.afterRead, h]

/-- A read of a registered address leaves what the keyboard's activation leaves (20_memory.md R63). -/
theorem State.afterRead_device (s : State) (a : Word) (d : Device) (h : s.deviceAt a = some d) :
    s.afterRead a = s.activateKeyboard := by
  cases d; simp [State.afterRead, h, State.activate]

/-- Everything a read can do: nothing, or one keyboard activation. -/
theorem State.afterRead_cases (s : State) (a : Word) :
    (s.deviceAt a = none ∧ s.afterRead a = s) ∨ (s.deviceAt a = some .keyboard ∧ s.afterRead a = s.activateKeyboard) := by
  cases h : s.deviceAt a with
  | none => exact .inl ⟨rfl, s.afterRead_plain a h⟩
  | some d => cases d; exact .inr ⟨rfl, s.afterRead_device a _ h⟩

/-- What an activation leaves alone: everything but the input stream and memory (20_memory.md R65, R74). -/
theorem State.activateKeyboard_frame (s : State) :
    s.activateKeyboard.regs = s.regs ∧ s.activateKeyboard.pc = s.pc ∧ s.activateKeyboard.cond = s.cond ∧
    s.activateKeyboard.run = s.run ∧ s.activateKeyboard.inEnd = s.inEnd ∧ s.activateKeyboard.outq = s.outq ∧
    s.activateKeyboard.image = s.image ∧ s.activateKeyboard.cfg = s.cfg := by
  unfold State.activateKeyboard; split <;> simp

/-- An activation consumes the next input, if there is one. -/
theorem State.activateKeyboard_inq (s : State) : s.activateKeyboard.inq = s.upcoming.tail := by
  unfold State.activateKeyboard
  split
  · next h => simp [h]
  · next h => simp [h]
  · next h =>
    have : s.inq = [] := by
      unfold State.upcoming at h; split at h
      · assumption
      · cases h
    simp [h, this]

/-- An activation writes no cell but KBSR and KBDR (20_memory.md R74). -/
theorem State.activateKeyboard_other (s : State) (b : Word) (h1 : b ≠ s.cfg.kbsrAddr) (h2 : b ≠ s.cfg.kbdrAddr) :
    Mem.read s.activateKeyboard.mem b = Mem.read s.mem b := by
  unfold State.activateKeyboard
  split <;> simp [Mem.read_write_other _ _ _ _ h1, Mem.read_write_other _ _ _ _ h2]

/-- An activation keeps memory canonical. -/
theorem State.activateKeyboard_wf (s : State) (h : Mem.wf s.mem = true) : Mem.wf s.activateKeyboard.mem = true := by
  unfold State.activateKeyboard
  split <;> simp [Mem.wf_write, h]

@[simp] theorem State.afterRead_regs (s : State) (a : Word) : (s.afterRead a).regs = s.regs := by
  rcases s.afterRead_cases a with ⟨_, h⟩ | ⟨_, h⟩ <;> simp [h, s.activateKeyboard_frame]

@[simp] theorem State.afterRead_reg (s : State) (a : Word) (q : Reg) : (s.afterRead a).reg q = s.reg q := by
  simp [State.reg]

@[simp] theorem State.afterRead_pc (s : State) (a : Word) : (s.afterRead a).pc = s.pc := by
  rcases s.afterRead_cases a with ⟨_, h⟩ | ⟨_, h⟩ <;> simp [h, s.activateKeyboard_frame]

@[simp] theorem State.afterRead_cond (s : State) (a : Word) : (s.afterRead a).cond = s.cond := by
  rcases s.afterRead_cases a with ⟨_, h⟩ | ⟨_, h⟩ <;> simp [h, s.activateKeyboard_frame]

@[simp] theorem State.afterRead_run (s : State) (a : Word) : (s.afterRead a).run = s.run := by
  rcases s.afterRead_cases a with ⟨_, h⟩ | ⟨_, h⟩ <;> simp [h, s.activateKeyboard_frame]

@[simp] theorem State.afterRead_inEnd (s : State) (a : Word) : (s.afterRead a).inEnd = s.inEnd := by
  rcases s.afterRead_cases a with ⟨_, h⟩ | ⟨_, h⟩ <;> simp [h, s.activateKeyboard_frame]

@[simp] theorem State.afterRead_outq (s : State) (a : Word) : (s.afterRead a).outq = s.outq := by
  rcases s.afterRead_cases a with ⟨_, h⟩ | ⟨_, h⟩ <;> simp [h, s.activateKeyboard_frame]

@[simp] theorem State.afterRead_image (s : State) (a : Word) : (s.afterRead a).image = s.image := by
  rcases s.afterRead_cases a with ⟨_, h⟩ | ⟨_, h⟩ <;> simp [h, s.activateKeyboard_frame]

@[simp] theorem State.afterRead_cfg (s : State) (a : Word) : (s.afterRead a).cfg = s.cfg := by
  rcases s.afterRead_cases a with ⟨_, h⟩ | ⟨_, h⟩ <;> simp [h, s.activateKeyboard_frame]

@[simp] theorem State.afterRead_deviceAt (s : State) (a b : Word) : (s.afterRead a).deviceAt b = s.deviceAt b := by
  simp [State.deviceAt]

/-- Nothing is consumed where nothing of the stream changes. -/
theorem State.ConsumesInput.of_same {s t : State} (hq : t.inq = s.inq) (he : t.inEnd = s.inEnd) : s.ConsumesInput t :=
  ⟨he, [], 0, by simp [hq]⟩

/-- Consuming in two parts is consuming. -/
theorem State.ConsumesInput.trans {s t u : State} (h : s.ConsumesInput t) (k : t.ConsumesInput u) : s.ConsumesInput u := by
  obtain ⟨he, l, n, hl⟩ := h
  obtain ⟨ke, l', m, kl⟩ := k
  refine ⟨ke.trans he, l ++ l', n + m, ?_⟩
  rw [he] at kl
  rw [List.replicate_add, List.flatten_append, ← List.append_assoc, hl, List.append_assoc, kl, List.append_assoc]

/-- A read consumes at most the next input. -/
theorem State.afterRead_consumes (s : State) (a : Word) : s.ConsumesInput (s.afterRead a) := by
  rcases s.afterRead_cases a with ⟨_, h⟩ | ⟨_, h⟩
  · exact .of_same (by rw [h]) (by rw [h])
  · have hc : (s.afterRead a).inq = s.upcoming.drop 1 := by rw [h, s.activateKeyboard_inq, List.drop_one]
    cases hq : s.inq with
    | nil => exact ⟨s.afterRead_inEnd a, s.upcoming.take 1, 1, by rw [hc, List.take_append_drop]; simp [State.upcoming, hq]⟩
    | cons e rest =>
      exact ⟨s.afterRead_inEnd a, s.upcoming.take 1, 0, by rw [hc, List.take_append_drop]; simp [State.upcoming, hq]⟩

/-- A read writes no cell but the keyboard's two. -/
theorem State.afterRead_mem_other (s : State) (a b : Word) (h1 : b ≠ s.cfg.kbsrAddr) (h2 : b ≠ s.cfg.kbdrAddr) :
    Mem.read (s.afterRead a).mem b = Mem.read s.mem b := by
  rcases s.afterRead_cases a with ⟨_, h⟩ | ⟨_, h⟩ <;> rw [h]
  exact s.activateKeyboard_other b h1 h2

/-- A read keeps memory canonical. -/
theorem State.afterRead_wf (s : State) (a : Word) (h : Mem.wf s.mem = true) : Mem.wf (s.afterRead a).mem = true := by
  rcases s.afterRead_cases a with ⟨_, e⟩ | ⟨_, e⟩ <;> rw [e]
  · exact h
  · exact s.activateKeyboard_wf h

/-- The parts of MemRead. -/
@[simp] theorem State.memRead_fst (s : State) (a : Word) : (s.memRead a).1 = Mem.read (s.afterRead a).mem a := rfl

@[simp] theorem State.memRead_snd (s : State) (a : Word) : (s.memRead a).2 = s.afterRead a := rfl

/-- The parts of a fetch. -/
@[simp] theorem State.fetch_fst (s : State) : s.fetch.1 = Mem.read (s.afterRead s.pc).mem s.pc := rfl

@[simp] theorem State.fetch_snd (s : State) : s.fetch.2 = (s.afterRead s.pc).setPc (s.pc + 1) := rfl

end Sys2Proof.Machine
end

