-- ==== Sys2Proof/Laws/PerInstr.lean ====
section
/-! SUPPORT. The statements made per instruction: the top four bits of an instruction's word are its opcode number
(30_encoding.md R101, R102). -/

namespace Sys2Proof.Laws.OpcodeField

open Sys2Proof

/-- The word of `i` has the opcode number of `i` in bits 15:12. -/
def Statement (i : Instr) : Prop := (encode i).extractLsb' 12 4 = i.opcodeNumber

theorem add (dr sr1 sr2 : Reg) : Statement (.add dr sr1 sr2) := by
  simp (disch := decide) only [Statement, encode, BitVec.extractLsb'_append_eq_of_le]; rfl

theorem addImm (dr sr1 : Reg) (imm5 : BitVec 5) : Statement (.addImm dr sr1 imm5) := by
  simp (disch := decide) only [Statement, encode, BitVec.extractLsb'_append_eq_of_le]; rfl

theorem and (dr sr1 sr2 : Reg) : Statement (.and dr sr1 sr2) := by
  simp (disch := decide) only [Statement, encode, BitVec.extractLsb'_append_eq_of_le]; rfl

theorem andImm (dr sr1 : Reg) (imm5 : BitVec 5) : Statement (.andImm dr sr1 imm5) := by
  simp (disch := decide) only [Statement, encode, BitVec.extractLsb'_append_eq_of_le]; rfl

theorem not (dr sr : Reg) : Statement (.not dr sr) := by
  simp (disch := decide) only [Statement, encode, BitVec.extractLsb'_append_eq_of_le]; rfl

theorem br (mask : BitVec 3) (off9 : BitVec 9) : Statement (.br mask off9) := by
  simp (disch := decide) only [Statement, encode, BitVec.extractLsb'_append_eq_of_le]; rfl

theorem jmp (base : Reg) : Statement (.jmp base) := by
  simp (disch := decide) only [Statement, encode, BitVec.extractLsb'_append_eq_of_le]; rfl

theorem jsr (off11 : BitVec 11) : Statement (.jsr off11) := by
  simp (disch := decide) only [Statement, encode, BitVec.extractLsb'_append_eq_of_le]; rfl

theorem jsrr (base : Reg) : Statement (.jsrr base) := by
  simp (disch := decide) only [Statement, encode, BitVec.extractLsb'_append_eq_of_le]; rfl

theorem ld (dr : Reg) (off9 : BitVec 9) : Statement (.ld dr off9) := by
  simp (disch := decide) only [Statement, encode, BitVec.extractLsb'_append_eq_of_le]; rfl

theorem ldi (dr : Reg) (off9 : BitVec 9) : Statement (.ldi dr off9) := by
  simp (disch := decide) only [Statement, encode, BitVec.extractLsb'_append_eq_of_le]; rfl

theorem ldr (dr base : Reg) (off6 : BitVec 6) : Statement (.ldr dr base off6) := by
  simp (disch := decide) only [Statement, encode, BitVec.extractLsb'_append_eq_of_le]; rfl

theorem lea (dr : Reg) (off9 : BitVec 9) : Statement (.lea dr off9) := by
  simp (disch := decide) only [Statement, encode, BitVec.extractLsb'_append_eq_of_le]; rfl

theorem st (sr : Reg) (off9 : BitVec 9) : Statement (.st sr off9) := by
  simp (disch := decide) only [Statement, encode, BitVec.extractLsb'_append_eq_of_le]; rfl

theorem sti (sr : Reg) (off9 : BitVec 9) : Statement (.sti sr off9) := by
  simp (disch := decide) only [Statement, encode, BitVec.extractLsb'_append_eq_of_le]; rfl

theorem str (sr base : Reg) (off6 : BitVec 6) : Statement (.str sr base off6) := by
  simp (disch := decide) only [Statement, encode, BitVec.extractLsb'_append_eq_of_le]; rfl

theorem trap (vector : BitVec 8) : Statement (.trap vector) := by
  simp (disch := decide) only [Statement, encode, BitVec.extractLsb'_append_eq_of_le]; rfl

theorem rti : Statement .rti := by unfold Statement; decide

theorem res (low12 : BitVec 12) : Statement (.res low12) := by
  simp (disch := decide) only [Statement, encode, BitVec.extractLsb'_append_eq_of_le]; rfl

theorem ret : Statement .ret := by unfold Statement; decide

theorem getc : Statement .getc := by unfold Statement; decide

theorem out : Statement .out := by unfold Statement; decide

theorem puts : Statement .puts := by unfold Statement; decide

theorem inp : Statement .inp := by unfold Statement; decide

theorem putsp : Statement .putsp := by unfold Statement; decide

theorem halt : Statement .halt := by unfold Statement; decide

theorem nop : Statement .nop := by unfold Statement; decide

end Sys2Proof.Laws.OpcodeField
end

