-- ==== Sys2Proof/Laws/Trap.lean ====
section
/-! SUPPORT. What the services of the trap dispatcher can do. -/

namespace Sys2Proof.Machine

/-- Everything a blocking read can do: take a byte, exhaust a closed stream, or wait on an open one. -/
theorem State.trapInput_cases (s : State) (svc : InputService) :
    (∃ c rest, s.takeByte = some (c, rest) ∧ s.trapInput svc = { s with inq := rest }.inputDone c svc) ∨
    (s.takeByte = none ∧ s.inEnd = .closed ∧
      s.trapInput svc = s.raiseFatal (.inputExhausted svc.vector s.instrAddr)) ∨
    (s.takeByte = none ∧ (∃ cycle, s.inEnd = .ongoing cycle) ∧ s.trapInput svc = { s with run := .waiting svc }) := by
  unfold State.trapInput
  cases h : s.takeByte with
  | some cr => exact .inl ⟨cr.1, cr.2, rfl, rfl⟩
  | none => cases hc : s.inEnd <;> simp

/-- What a blocking read leaves of the stream is its end. -/
theorem nextByte_suffix {inq rest : List HostInput} {c : Byte} (h : nextByte inq = some (c, rest)) : rest <:+ inq := by
  induction inq with
  | nil => simp [nextByte] at h
  | cons e inq ih =>
    cases e with
    | byte b =>
      simp only [nextByte, Option.some.injEq, Prod.mk.injEq] at h
      exact h.2 ▸ List.suffix_cons _ _
    | pause => exact (ih h).trans (List.suffix_cons _ _)

/-- A byte taken is taken from the front of the stream. -/
theorem State.takeByte_consumes {s : State} {c : Byte} {rest : List HostInput} (h : s.takeByte = some (c, rest)) :
    s.ConsumesInput { s with inq := rest } := by
  unfold State.takeByte at h
  split at h
  · next hr =>
    obtain ⟨l, hl⟩ := nextByte_suffix (hr.trans h)
    exact ⟨rfl, l, 0, by simp [hl]⟩
  · obtain ⟨l, hl⟩ := nextByte_suffix h
    exact ⟨rfl, s.inq ++ l, 1, by simp [← hl]⟩

/-- The byte's completion changes R0, COND and, for IN, the output; nothing else. -/
theorem State.inputDone_frame (s : State) (c : Byte) (svc : InputService) :
    (s.inputDone c svc).pc = s.pc ∧ (s.inputDone c svc).mem = s.mem ∧ (s.inputDone c svc).run = s.run ∧
    (s.inputDone c svc).inq = s.inq ∧ (s.inputDone c svc).inEnd = s.inEnd ∧
    (s.inputDone c svc).image = s.image ∧ (s.inputDone c svc).cfg = s.cfg := by
  cases svc <;> simp only [State.inputDone, State.inputWrite] <;> split <;> simp

/-- The byte's completion puts it in R0 and changes no other register. -/
theorem State.inputDone_reg (s : State) (c : Byte) (svc : InputService) (q : Reg) :
    (s.inputDone c svc).reg q = if q = 0 then byteWord c else s.reg q := by
  cases svc <;> simp only [State.inputDone, State.inputWrite] <;> split <;> simp

/-- COND follows the byte only under TRAP_INPUT_SETS_FLAGS. -/
theorem State.inputDone_cond (s : State) (c : Byte) (svc : InputService) :
    (s.inputDone c svc).cond = if s.cfg.trapInputSetsFlags then setcc (byteWord c) else s.cond := by
  cases svc <;> simp only [State.inputDone, State.inputWrite] <;> split <;> simp

/-- IN echoes the byte, GETC does not. -/
theorem State.inputDone_outq (s : State) (c : Byte) (svc : InputService) :
    (s.inputDone c svc).outq = s.outq ++ (match svc with | .getc => [] | .inp => [c]) := by
  cases svc <;> simp only [State.inputDone, State.inputWrite] <;> split <;> simp

/-- A blocking read changes no memory, no parameter, no pc and no pending image, and R0 is the one register it may write. -/
theorem State.trapInput_frame (s : State) (svc : InputService) :
    (s.trapInput svc).pc = s.pc ∧ (s.trapInput svc).mem = s.mem ∧ (s.trapInput svc).image = s.image ∧
    (s.trapInput svc).cfg = s.cfg ∧ s.ConsumesInput (s.trapInput svc) ∧
    ∀ q, q ≠ 0 → (s.trapInput svc).reg q = s.reg q := by
  rcases s.trapInput_cases svc with ⟨c, rest, hn, h⟩ | ⟨_, _, h⟩ | ⟨_, _, h⟩
  · obtain ⟨hpc, hmem, _, hinq, hcl, him, hcfg⟩ := State.inputDone_frame { s with inq := rest } c svc
    refine ⟨by rw [h, hpc], by rw [h, hmem], by rw [h, him], by rw [h, hcfg], ?_, fun q hq => ?_⟩
    · exact (State.takeByte_consumes hn).trans (.of_same (by rw [h, hinq]) (by rw [h, hcl]))
    · rw [h, State.inputDone_reg, if_neg hq]; rfl
  · rw [h]; exact ⟨rfl, rfl, rfl, rfl, .of_same rfl rfl, fun _ _ => rfl⟩
  · rw [h]; exact ⟨rfl, rfl, rfl, rfl, .of_same rfl rfl, fun _ _ => rfl⟩

/-- A relation between the states before and after holds of PUTS's whole scan if it composes and every read and every
output satisfies it. -/
theorem scanPuts_induct (R : State → State → Prop) (trans : ∀ s t u, R s t → R t u → R s u)
    (read : ∀ s a, R s (s.afterRead a)) (out : ∀ s b, R s (s.out b)) :
    ∀ fuel p s t, scanPuts fuel p s = some t → R s t := by
  intro fuel
  induction fuel with
  | zero => intro p s t h; simp [scanPuts] at h
  | succ fuel ih =>
    intro p s t h
    simp only [scanPuts] at h
    split at h
    · simp only [State.memRead_snd, Option.some.injEq] at h; exact h ▸ read s p
    · exact trans _ _ _ (trans _ _ _ (read s p) (out _ _)) (ih _ _ _ h)

/-- The same for PUTSP's scan. -/
theorem scanPutsp_induct (R : State → State → Prop) (trans : ∀ s t u, R s t → R t u → R s u)
    (read : ∀ s a, R s (s.afterRead a)) (out : ∀ s b, R s (s.out b)) :
    ∀ fuel p s t, scanPutsp fuel p s = some t → R s t := by
  intro fuel
  induction fuel with
  | zero => intro p s t h; simp [scanPutsp] at h
  | succ fuel ih =>
    intro p s t h
    simp only [scanPutsp] at h
    split at h
    · simp only [State.memRead_snd, Option.some.injEq] at h; exact h ▸ read s p
    · split at h
      · simp only [State.memRead_snd, Option.some.injEq] at h; exact h ▸ trans _ _ _ (read s p) (out _ _)
      · exact trans _ _ _ (trans _ _ _ (trans _ _ _ (read s p) (out _ _)) (out _ _)) (ih _ _ _ h)

/-- What a scan, or any run of reads and outputs, leaves alone and how it moves the streams. -/
structure ScanRel (s t : State) : Prop where
  regs : t.regs = s.regs
  pc : t.pc = s.pc
  cond : t.cond = s.cond
  run : t.run = s.run
  image : t.image = s.image
  cfg : t.cfg = s.cfg
  input : s.ConsumesInput t
  outq : ∃ l, t.outq = s.outq ++ l
  mem : ∀ b, b ≠ s.cfg.kbsrAddr → b ≠ s.cfg.kbdrAddr → Mem.read t.mem b = Mem.read s.mem b
  wf : Mem.wf s.mem = true → Mem.wf t.mem = true

theorem ScanRel.refl (s : State) : ScanRel s s :=
  ⟨rfl, rfl, rfl, rfl, rfl, rfl, .of_same rfl rfl, ⟨[], by simp⟩, fun _ _ _ => rfl, id⟩

theorem ScanRel.trans {s t u : State} (h : ScanRel s t) (k : ScanRel t u) : ScanRel s u where
  regs := k.regs.trans h.regs
  pc := k.pc.trans h.pc
  cond := k.cond.trans h.cond
  run := k.run.trans h.run
  image := k.image.trans h.image
  cfg := k.cfg.trans h.cfg
  input := h.input.trans k.input
  outq := by
    obtain ⟨l, hl⟩ := h.outq
    obtain ⟨l', hl'⟩ := k.outq
    exact ⟨l ++ l', by rw [hl', hl, List.append_assoc]⟩
  mem := fun b h1 h2 => (k.mem b (h.cfg ▸ h1) (h.cfg ▸ h2)).trans (h.mem b h1 h2)
  wf := fun w => k.wf (h.wf w)

theorem ScanRel.read (s : State) (a : Word) : ScanRel s (s.afterRead a) where
  regs := s.afterRead_regs a
  pc := s.afterRead_pc a
  cond := s.afterRead_cond a
  run := s.afterRead_run a
  image := s.afterRead_image a
  cfg := s.afterRead_cfg a
  input := s.afterRead_consumes a
  outq := ⟨[], by simp⟩
  mem := s.afterRead_mem_other a
  wf := s.afterRead_wf a

theorem ScanRel.out (s : State) (b : Byte) : ScanRel s (s.out b) :=
  ⟨rfl, rfl, rfl, rfl, rfl, rfl, .of_same rfl rfl, ⟨[b], rfl⟩, fun _ _ _ => rfl, id⟩

/-- Everything PUTS's scan can do, when it ends. -/
theorem scanPuts_rel {fuel : Nat} {p : Word} {s t : State} (h : scanPuts fuel p s = some t) : ScanRel s t :=
  scanPuts_induct ScanRel (fun _ _ _ => ScanRel.trans) ScanRel.read ScanRel.out _ _ _ _ h

/-- Everything PUTSP's scan can do, when it ends. -/
theorem scanPutsp_rel {fuel : Nat} {p : Word} {s t : State} (h : scanPutsp fuel p s = some t) : ScanRel s t :=
  scanPutsp_induct ScanRel (fun _ _ _ => ScanRel.trans) ScanRel.read ScanRel.out _ _ _ _ h

/-- A scan's outcome is a next state exactly when the scan ends. -/
theorem scanOutcome_next {o : Option State} {t : State} : scanOutcome o = .next t ↔ o = some t := by
  cases o <;> simp [scanOutcome]

/-- A string whose first cell is its terminator writes nothing (44_trap_system.md R216, R218). -/
theorem servicePuts_empty (s : State) (h : s.deviceAt (s.reg 0) = none) (hz : Mem.read s.mem (s.reg 0) = 0) :
    servicePuts s = .next s ∧ servicePutsp s = .next s := by
  obtain ⟨n, hn⟩ : ∃ n, scanFuel s = n + 1 := ⟨65536 * (s.inq.length + 2 * s.inEnd.cycle.length + 2) - 1, by simp only [scanFuel]; omega⟩
  have hv : s.memRead (s.reg 0) = (0, s) := by simp [State.memRead, State.afterRead, h, hz]
  simp [servicePuts, servicePutsp, hn, scanPuts, scanPutsp, hv, scanOutcome, lowByte]

/-- The unsupported vector halts with its record or does nothing. -/
theorem State.serviceUnsupported_cases (s : State) (v : BitVec 8) :
    (s.cfg.unsupportedPolicy = .fatal ∧ s.serviceUnsupported v = s.raiseFatal (.unsupportedTrapVector v s.instrAddr)) ∨
    (s.cfg.unsupportedPolicy = .ignore ∧ s.serviceUnsupported v = s) := by
  cases h : s.cfg.unsupportedPolicy <;> simp [State.serviceUnsupported, h]

/-- Everything the dispatcher can do: one service by the vector's number. -/
theorem trapService_cases (v : BitVec 8) (s : State) :
    (v = 0x20 ∧ trapService v s = .next s.serviceGetc) ∨ (v = 0x21 ∧ trapService v s = .next s.serviceOut) ∨
    (v = 0x22 ∧ trapService v s = servicePuts s) ∨ (v = 0x23 ∧ trapService v s = .next s.serviceIn) ∨
    (v = 0x24 ∧ trapService v s = servicePutsp s) ∨ (v = 0x25 ∧ trapService v s = .next s.serviceHalt) ∨
    (supportedVector v = false ∧ trapService v s = .next (s.serviceUnsupported v)) := by
  by_cases h : supportedVector v = true
  · have : v = 0x20 ∨ v = 0x21 ∨ v = 0x22 ∨ v = 0x23 ∨ v = 0x24 ∨ v = 0x25 := by revert h; revert v; decide
    rcases this with rfl | rfl | rfl | rfl | rfl | rfl <;> simp [trapService]
  · have hne : v ≠ 0x20 ∧ v ≠ 0x21 ∧ v ≠ 0x22 ∧ v ≠ 0x23 ∧ v ≠ 0x24 ∧ v ≠ 0x25 := by revert h; revert v; decide
    obtain ⟨h0, h1, h2, h3, h4, h5⟩ := hne
    refine .inr (.inr (.inr (.inr (.inr (.inr ⟨by simpa using h, ?_⟩)))))
    rw [trapService, if_neg h0, if_neg h1, if_neg h2, if_neg h3, if_neg h4, if_neg h5]

end Sys2Proof.Machine
end

