-- ==== Sys2Proof/Laws/Step.lean ====
section
/-! SUPPORT. Everything a step can do, by the run state, and everything boot can do. -/

namespace Sys2Proof.Machine

/-- Boot answers a next state only for a supplied image that loads. -/
theorem bootStep_next {s t : State} (h : bootStep s = .next t) :
    ∃ bytes origin m, s.image = some bytes ∧ loadImage bytes s.mem = some (origin, m) ∧
      t = { s with mem := m, pc := origin, run := .running, image := none } := by
  unfold bootStep at h
  split at h
  · cases h
  · next bytes hb =>
    split at h
    · cases h
    · next origin m hl => cases h; exact ⟨bytes, origin, m, hb, hl, rfl⟩

/-- A step that answers a next state executed an instruction, completed or continued a wait, or booted. -/
theorem step_cases {s t : State} (h : step s = .next t) :
    (s.run = .running ∧ exec (decode s.fetch.1) s.fetch.2 = .next t) ∨
    (∃ svc, s.run = .waiting svc ∧ t = s.resumeInput svc) ∨
    (s.run = .constructed ∧ bootStep s = .next t) := by
  unfold step at h
  split at h
  · next hr => exact .inl ⟨hr, h⟩
  · next svc hr => cases h; exact .inr (.inl ⟨svc, hr, rfl⟩)
  · next hr => exact .inr (.inr ⟨hr, h⟩)
  · cases h

/-- A fetch changes pc, and where a device is at pc what its activation changes. -/
theorem State.fetch_rel (s : State) : ScanRel s { s.fetch.2 with pc := s.pc } :=
  ⟨(ScanRel.read s s.pc).regs, rfl, (ScanRel.read s s.pc).cond, (ScanRel.read s s.pc).run,
    (ScanRel.read s s.pc).image, (ScanRel.read s s.pc).cfg, (ScanRel.read s s.pc).input,
    (ScanRel.read s s.pc).outq, (ScanRel.read s s.pc).mem, (ScanRel.read s s.pc).wf⟩

end Sys2Proof.Machine
end

