-- ==== Sys2Proof/Tests/Slice0.lean ====
section
/-! SUPPORT. Tests from the spec's own vectors (95_test_vectors.md; their ids stand in the comments), the well-formedness
smoke test, and a witness for the hypotheses of every obligation that has some. -/

namespace Sys2Proof.Tests

open Sys2Proof Sys2Proof.Machine

/-- The next state of an outcome, if it is one. -/
def nextOf : Host.Outcome State Fault Refusal → Option State
  | .next s => some s
  | _ => none

/-- A running machine at 0x3000 with COND = Z, registers and memory zero but for those listed, and a one-byte IN_PROMPT. -/
def start (regs : List (Reg × Word)) (cells : List (Word × Word)) : State :=
  let s := State.construct { Config.standard with inPrompt := [0x3E] }
  let s := { s with pc := 0x3000, run := .running }
  let s := cells.foldl (fun s c => s.memWrite c.1 c.2) s
  regs.foldl (fun s r => s.setRegRaw r.1 r.2) s

/-- One step with the word `w` at 0x3000, and what `f` sees of the next state. -/
def after {α : Type} (w : Word) (regs : List (Reg × Word)) (cells : List (Word × Word)) (f : State → α) : Option α :=
  (nextOf (step ((start regs cells).memWrite 0x3000 w))).map f

/-! Well-formedness: an ill-formed term for each check -/

theorem test_jmp_r7_ill_formed : Instr.wellFormed (.jmp 7) = false ∧ Instr.wellFormed (.jmp 6) = true := by decide
theorem test_trap_service_ill_formed :
    Instr.wellFormed (.trap 0x20) = false ∧ Instr.wellFormed (.trap 0x25) = false ∧
    Instr.wellFormed (.trap 0x1F) = true ∧ Instr.wellFormed (.trap 0x26) = true := by decide
theorem test_br_empty_ill_formed :
    Instr.wellFormed (.br 0 0) = false ∧ Instr.wellFormed (.br 0 1) = true ∧ Instr.wellFormed (.br 1 0) = true := by decide

/-! Decoding: each constructor's word, written out from 30_encoding.md R104 -/

theorem test_decode_add : decode 0b0001_011_001_0_00_010 = .add 3 1 2 := by decide
theorem test_decode_add_unused_bits : decode 0b0001_011_001_0_11_010 = .add 3 1 2 := by decide
theorem test_decode_addImm : decode 0b0001_011_001_1_10000 = .addImm 3 1 0b10000 := by decide
theorem test_decode_and : decode 0b0101_000_001_0_00_010 = .and 0 1 2 := by decide
theorem test_decode_andImm : decode 0b0101_011_001_1_01111 = .andImm 3 1 0b01111 := by decide
theorem test_decode_not : decode 0b1001_010_001_111111 = .not 2 1 := by decide
theorem test_decode_br : decode 0b0000_100_100000001 = .br 0b100 0b100000001 := by decide
theorem test_decode_jmp : decode 0b1100_000_010_000000 = .jmp 2 := by decide
theorem test_decode_jsr : decode 0b0100_1_10000000001 = .jsr 0b10000000001 := by decide
theorem test_decode_jsrr : decode 0b0100_0_00_111_000000 = .jsrr 7 := by decide
theorem test_decode_ld : decode 0b0010_110_111111111 = .ld 6 0b111111111 := by decide
theorem test_decode_ldi : decode 0b1010_010_000000001 = .ldi 2 1 := by decide
theorem test_decode_ldr : decode 0b0110_100_101_100000 = .ldr 4 5 0b100000 := by decide
theorem test_decode_lea : decode 0b1110_110_000000101 = .lea 6 5 := by decide
theorem test_decode_st : decode 0b0011_011_000000000 = .st 3 0 := by decide
theorem test_decode_sti : decode 0b1011_001_000000011 = .sti 1 3 := by decide
theorem test_decode_str : decode 0b0111_001_010_111111 = .str 1 2 0b111111 := by decide
theorem test_decode_trap : decode 0b1111_0000_00100110 = .trap 0x26 := by decide
theorem test_decode_rti : decode 0b1000_000000000000 = .rti := by decide
theorem test_decode_res : decode 0b1101_100000000001 = .res 0b100000000001 := by decide
theorem test_decode_ret : decode 0b1100_000_111_000000 = .ret := by decide
theorem test_decode_services :
    decode 0xF020 = .getc ∧ decode 0xF021 = .out ∧ decode 0xF022 = .puts ∧ decode 0xF023 = .inp ∧
    decode 0xF024 = .putsp ∧ decode 0xF025 = .halt := by decide
theorem test_decode_nop : decode 0x0000 = .nop := by decide
theorem test_table_word : decodeTableWord 16 0x167F = some (.addImm 3 1 0x1F) := by decide

/-! One step each, from the vectors of 95_test_vectors.md -/

-- S2
theorem test_addImm_negative :
    after 0x167F [(1, 0xFFFF)] [] (fun t => (t.reg 3, t.cond, t.pc)) = some (0xFFFE, .n, 0x3001) := by decide
-- V2
theorem test_add_carry_lost :
    after 0x1642 [(1, 0x8000), (2, 0x8000)] [] (fun t => (t.reg 3, t.cond)) = some (0x0000, .z) := by decide
-- V5
theorem test_add_same_register : after 0x1241 [(1, 0x4000)] [] (fun t => (t.reg 1, t.cond)) = some (0x8000, .n) := by decide
-- V8
theorem test_andImm_low : after 0x566F [(1, 0xABCD)] [] (fun t => (t.reg 3, t.cond)) = some (0x000D, .p) := by decide
-- V9
theorem test_and : after 0x5642 [(1, 0xF0F0), (2, 0x0FF0)] [] (fun t => (t.reg 3, t.cond)) = some (0x00F0, .p) := by decide
-- V12, V13
theorem test_not_to_negative : after 0x947F [(1, 0x7FFF)] [] (fun t => (t.reg 2, t.cond)) = some (0x8000, .n) := by decide
theorem test_not_to_positive : after 0x947F [(1, 0x8000)] [] (fun t => (t.reg 2, t.cond)) = some (0x7FFF, .p) := by decide
-- S7, S10
theorem test_br_taken : after 0x0405 [] [] (fun t => (t.pc, t.cond)) = some (0x3006, .z) := by decide
theorem test_br_not_taken : after 0x0805 [] [] (fun t => (t.pc, t.cond)) = some (0x3001, .z) := by decide
-- V22
theorem test_nop : after 0x0000 [] [] (fun t => t.pc) = some 0x3001 := by decide
-- V25, V26
theorem test_jmp : after 0xC080 [(2, 0x4000)] [] (fun t => t.pc) = some 0x4000 := by decide
theorem test_ret : after 0xC1C0 [(7, 0x3003)] [] (fun t => t.pc) = some 0x3003 := by decide
-- V27
theorem test_jsr_back : after 0x4C00 [] [] (fun t => (t.reg 7, t.pc, t.cond)) = some (0x3001, 0x2C01, .z) := by decide
-- V30, V31
theorem test_jsrr : after 0x40C0 [(3, 0x5000)] [] (fun t => (t.reg 7, t.pc)) = some (0x3001, 0x5000) := by decide
theorem test_jsrr_r7 : after 0x41C0 [(7, 0x5000)] [] (fun t => (t.reg 7, t.pc)) = some (0x3001, 0x3001) := by decide
-- V40
theorem test_ld_itself : after 0x21FF [] [] (fun t => (t.reg 0, t.cond)) = some (0x21FF, .p) := by decide
-- S16, S17: a byte is there; none is
theorem test_ldi_keyboard_ready :
    (nextOf (step ({ (start [] [(0x3002, 0xFE00)]).memWrite 0x3000 0xA201 with inq := [.byte 0x71] }))).map
      (fun t => (t.reg 1, t.cond, Mem.read t.mem 0xFE00, Mem.read t.mem 0xFE02, t.inq)) =
      some (0x8000, .n, 0x8000, 0x0071, []) := by decide
theorem test_ldi_keyboard_not_ready :
    after 0xA201 [] [(0x3002, 0xFE00), (0xFE00, 0x1234)] (fun t => (t.reg 1, t.cond, Mem.read t.mem 0xFE00)) =
      some (0, .z, 0) := by decide
-- 20_memory.md R74 on an endlessly ready stream: the cycle begins again
theorem test_ldi_keyboard_endless :
    (nextOf (step (((start [] [(0x3002, 0xFE00)]).memWrite 0x3000 0xA201).supplyForever [.byte 0x41, .pause]))).map
      (fun t => (t.reg 1, Mem.read t.mem 0xFE02, t.inq)) = some (0x8000, 0x0041, [.pause]) := by decide
-- V43, V45
theorem test_ldr_wraps : after 0x6960 [(5, 0x0010)] [(0xFFF0, 0x1234)] (fun t => (t.reg 4, t.cond)) = some (0x1234, .p) := by decide
theorem test_ldr_own_base : after 0x6240 [(1, 0x4000)] [(0x4000, 7)] (fun t => t.reg 1) = some 7 := by decide
-- S14, V48
theorem test_lea : after 0xEC05 [] [] (fun t => (t.reg 6, t.cond)) = some (0x3006, .p) := by decide
theorem test_lea_r7 : after 0xEF00 [] [] (fun t => (t.reg 7, t.cond)) = some (0x2F01, .p) := by decide
-- V49
theorem test_st_next_word : after 0x3600 [(3, 0xBEEF)] [] (fun t => (Mem.read t.mem 0x3001, t.cond)) = some (0xBEEF, .z) := by decide
-- V50
theorem test_sti : after 0xB203 [(1, 0x1234)] [(0x3004, 0x5000)] (fun t => Mem.read t.mem 0x5000) = some 0x1234 := by decide
-- V51, V53: a store to KBSR activates nothing
theorem test_str_top : after 0x72BF [(1, 0xCAFE)] [] (fun t => Mem.read t.mem 0xFFFF) = some 0xCAFE := by decide
theorem test_str_device :
    (nextOf (step ({ (start [(1, 0x1234), (2, 0xFE00)] []).memWrite 0x3000 0x7280 with inq := [.byte 0x71] }))).map
      (fun t => (Mem.read t.mem 0xFE00, t.inq)) = some (0x1234, [.byte 0x71]) := by decide
-- V61, V63
theorem test_getc_zero_byte :
    (nextOf (step ({ (start [] []).memWrite 0x3000 0xF020 with inq := [.byte 0], cond := .p }))).map
      (fun t => (t.reg 0, t.cond, t.reg 7, t.outq)) = some (0, .z, 0x3001, []) := by decide
theorem test_getc_closed :
    (nextOf (step ({ (start [(0, 0x1234)] []).memWrite 0x3000 0xF020 with inEnd := .closed, cond := .n }))).map
      (fun t => (t.reg 0, t.cond, t.pc, t.run)) =
      some (0x1234, .n, 0x3001, .halted (some (.inputExhausted 0x20 0x3000))) := by decide
-- V64
theorem test_out : after 0xF021 [(0, 0x1241)] [] (fun t => (t.outq, t.reg 0)) = some ([0x41], 0x1241) := by decide
-- V65, V68
theorem test_puts : after 0xF022 [(0, 0x4000)] [(0x4000, 0x48), (0x4001, 0x169)] (fun t => t.outq) = some [0x48, 0x69] := by decide
theorem test_puts_wraps : after 0xF022 [(0, 0xFFFF)] [(0xFFFF, 0x41), (0, 0x42)] (fun t => t.outq) = some [0x41, 0x42] := by decide
-- V72, V73
theorem test_in :
    (nextOf (step ({ (start [] []).memWrite 0x3000 0xF023 with inq := [.pause, .byte 0x79] }))).map
      (fun t => (t.reg 0, t.cond, t.outq)) = some (0x79, .p, [0x3E, 0x79]) := by decide
theorem test_in_closed :
    (nextOf (step ({ (start [] []).memWrite 0x3000 0xF023 with inEnd := .closed }))).map (fun t => (t.outq, t.run)) =
      some ([0x3E], .halted (some (.inputExhausted 0x23 0x3000))) := by decide
-- V69, V71
theorem test_putsp :
    after 0xF024 [(0, 0x4000)] [(0x4000, 0x6548), (0x4001, 0x6C)] (fun t => t.outq) = some [0x48, 0x65, 0x6C] := by decide
theorem test_putsp_high_zero :
    after 0xF024 [(0, 0x4000)] [(0x4000, 0x41), (0x4001, 0x4242)] (fun t => t.outq) = some [0x41] := by decide
-- V75
theorem test_halt : after 0xF125 [] [] (fun t => (t.run, t.pc, t.reg 7, t.outq)) = some (.halted none, 0x3001, 0x3001, []) := by decide
-- V76
theorem test_trap_unsupported :
    after 0xF026 [] [] (fun t => (t.run, t.reg 7)) = some (.halted (some (.unsupportedTrapVector 0x26 0x3000)), 0x3001) := by decide
-- V79
theorem test_rti : after 0x8000 [(7, 0x1111)] [] (fun t => (t.pc, t.reg 7, t.run)) = some (0x3001, 0x1111, .running) := by decide
-- V81
theorem test_res :
    after 0xDFFF [(7, 5)] [] (fun t => (t.run, t.pc, t.reg 7)) =
      some (.halted (some (.unsupportedOpcode 0xD 0xDFFF 0x3000)), 0x3001, 5) := by decide

/-- `start` with other parameters. -/
def withCfg (f : Config → Config) (s : State) : State := { s with cfg := f s.cfg }

-- V24, V32, V62, V77, V82: the parameters' other values
theorem test_br_cond_none :
    (nextOf (step ({ (start [] []).memWrite 0x3000 0x0E05 with cond := .none }))).map (fun t => t.pc) = some 0x3001 := by decide
theorem test_jsrr_r7_base_first :
    (nextOf (step (withCfg (fun c => { c with jsrrBaseAfterLink := false }) ((start [(7, 0x5000)] []).memWrite 0x3000 0x41C0)))).map
      (fun t => (t.reg 7, t.pc)) = some (0x3001, 0x5000) := by decide
theorem test_getc_keeps_flags :
    (nextOf (step (withCfg (fun c => { c with trapInputSetsFlags := false })
      { (start [] []).memWrite 0x3000 0xF020 with inq := [.byte 0x41], cond := .n }))).map
      (fun t => (t.reg 0, t.cond)) = some (0x41, .n) := by decide
theorem test_trap_ignored :
    (nextOf (step (withCfg (fun c => { c with unsupportedPolicy := .ignore }) ((start [] []).memWrite 0x3000 0xF026)))).map
      (fun t => (t.run, t.reg 7, t.pc)) = some (.running, 0x3001, 0x3001) := by decide
theorem test_res_ignored :
    (nextOf (step (withCfg (fun c => { c with unsupportedPolicy := .ignore }) ((start [] []).memWrite 0x3000 0xD000)))).map
      (fun t => (t.run, t.reg 7, t.pc)) = some (.running, 0, 0x3001) := by decide

-- V14: pc wraps; V94, V95: the last cell, and one past it
theorem test_pc_wraps :
    (nextOf (step ({ (start [] []).memWrite 0xFFFF 0x1021 with pc := 0xFFFF }))).map (fun t => (t.pc, t.reg 0)) = some (0, 1) := by decide
theorem test_boot_last_cell :
    (nextOf (step (State.reset.supplyImage [0xFF, 0xFF, 0x12, 0x34]))).map (fun t => (t.pc, t.run, Mem.read t.mem 0xFFFF)) =
      some (0xFFFF, .running, 0x1234) := by decide
theorem test_boot_past_the_top : step (State.reset.supplyImage [0xFF, 0xFF, 0x12, 0x34, 0x56, 0x78]) = .fault .malformedImage := rfl
-- 60_exceptions.md R271: waiting, then the byte comes
theorem test_wait_then_byte :
    ((nextOf (step ((start [] []).memWrite 0x3000 0xF023))).bind
      (fun t => nextOf (step (t.supplyInput (.byte 0x79))))).map (fun t => (t.run, t.reg 0, t.outq, t.pc)) =
      some (.running, 0x79, [0x3E, 0x79], 0x3001) := by decide
-- The host's placed word runs first after reset
theorem test_placed_word : (nextOf (step (State.reset.withFetchWord 16 0x1021))).map (fun t => (t.reg 0, t.pc)) = some (1, 1) := by decide

/-! Witnesses: for each obligation with hypotheses, a state and operands that meet them together -/

theorem witness_DecodeOfEncode : Instr.wellFormed (.ldr 4 5 0x20) = true := by decide

theorem witness_UnusedBitsAreIgnored :
    (0xDFFF : Word).extractLsb' 12 4 ∈ [0x0#4, 0x2#4, 0x3#4, 0x6#4, 0x7#4, 0xA#4, 0xB#4, 0xD#4, 0xE#4] ∧
    ((0x167F : Word).extractLsb' 12 4 ∈ [0x1#4, 0x5#4] ∧ (0x167F : Word).getLsbD 5 = true) ∧
    ((0x165A : Word).extractLsb' 12 4 ∈ [0x1#4, 0x5#4] ∧ (0x165A : Word).getLsbD 5 = false) ∧
    (0x9440 : Word).extractLsb' 12 4 = 0x9 ∧ (0xCFFF : Word).extractLsb' 12 4 = 0xC ∧
    ((0x4FFF : Word).extractLsb' 12 4 = 0x4 ∧ (0x4FFF : Word).getLsbD 11 = true) ∧
    ((0x47FF : Word).extractLsb' 12 4 = 0x4 ∧ (0x47FF : Word).getLsbD 11 = false) ∧
    (0xF125 : Word).extractLsb' 12 4 = 0xF ∧ (0x8FFF : Word).extractLsb' 12 4 = 0x8 := by decide

theorem witness_AFlagStaysSet : ∃ s t : State, step s = .next t ∧ s.cond ≠ .none :=
  ⟨(start [] []).memWrite 0x3000 0x8000, _, rfl, by decide⟩

theorem witness_MemReadRule : (start [] []).deviceAt 0xFE00 = some .keyboard ∧ (start [] []).deviceAt 0xFE01 = none ∧
    (start [] []).deviceAt 0xFE02 = none := by decide

/-- Each clause with listed inputs, the first with the cycle begun again too, and both keyboard cells' neighbour. -/
theorem witness_KeyboardActivation :
    (∃ s : State, Mem.wf s.mem = true ∧ s.cfg.kbsrAddr ≠ s.cfg.kbdrAddr ∧ s.upcoming = .byte 0xFF :: [] ∧ s.inq ≠ []) ∧
    (∃ s : State, Mem.wf s.mem = true ∧ s.cfg.kbsrAddr ≠ s.cfg.kbdrAddr ∧ s.upcoming = .byte 0 :: [.pause] ∧ s.inq = []) ∧
    (∃ s : State, Mem.wf s.mem = true ∧ s.cfg.kbsrAddr ≠ s.cfg.kbdrAddr ∧ s.upcoming = []) ∧
    (∃ s : State, Mem.wf s.mem = true ∧ s.cfg.kbsrAddr ≠ s.cfg.kbdrAddr ∧ s.upcoming = .pause :: []) ∧
    (0xFE01 : Word) ≠ Config.standard.kbsrAddr ∧ (0xFE01 : Word) ≠ Config.standard.kbdrAddr :=
  ⟨⟨(start [] []).supplyInput (.byte 0xFF), rfl, by decide, rfl, by decide⟩,
    ⟨(start [] []).supplyForever [.byte 0, .pause], rfl, by decide, rfl, rfl⟩, ⟨start [] [], rfl, by decide, rfl⟩,
    ⟨(start [] []).supplyInput .pause, rfl, by decide, rfl⟩, by decide, by decide⟩

-- S11, S12, S13
theorem witness_StoreThenLoadRoundTrip_pcRelative :
    ∃ s t u : State, Mem.wf s.mem = true ∧ exec (.st 1 2) s = .next t ∧ exec (.ld 2 1) (t.setPc 0x3002) = .next u ∧
      (0x3002 : Word) + sext9 1 = s.pc + sext9 2 ∧ s.deviceAt (s.pc + sext9 2) = none :=
  ⟨{ start [(1, 0xBEEF)] [] with pc := 0x3001 }, _, _, rfl, rfl, rfl, by decide, by decide⟩

theorem witness_StoreThenLoadRoundTrip_base :
    ∃ s t u : State, Mem.wf s.mem = true ∧ exec (.str 1 4 0x3E) s = .next t ∧ exec (.ldr 2 4 0x3E) (t.setPc 0x3002) = .next u ∧
      s.reg 4 + sext6 0x3E = s.reg 4 + sext6 0x3E ∧ s.deviceAt (s.reg 4 + sext6 0x3E) = none :=
  ⟨start [(1, 0xBEEF), (4, 0x4002)] [], _, _, rfl, rfl, rfl, rfl, by decide⟩

theorem witness_StoreThenLoadRoundTrip_indirect :
    ∃ s t u : State, Mem.wf s.mem = true ∧ exec (.sti 1 2) s = .next t ∧ exec (.ldi 2 1) (t.setPc 0x3002) = .next u ∧
      s.deviceAt ((0x3002 : Word) + sext9 1) = none ∧ s.deviceAt (s.memRead (s.pc + sext9 2)).1 = none ∧
      Mem.read t.mem ((0x3002 : Word) + sext9 1) = (s.memRead (s.pc + sext9 2)).1 :=
  ⟨{ start [(1, 0x1234)] [(0x3003, 0x5000)] with pc := 0x3001 }, _, _, by decide, rfl, rfl, by decide, by decide, by decide⟩

theorem witness_StoreToNextInstructionIsFetched :
    ∃ s t : State, Mem.wf s.mem = true ∧ s.run = .running ∧ s.deviceAt s.pc = none ∧ exec (.st 3 0) s = .next t :=
  ⟨start [(3, 0xF025)] [], _, rfl, rfl, by decide, rfl⟩

theorem witness_CanonicalMemoriesThatReadAlikeAreEqual :
    Mem.wf [(0, 1), (0xFFFF, 2)] = true ∧ ∀ a, Mem.read [(0, 1), (0xFFFF, 2)] a = Mem.read [(0, 1), (0xFFFF, 2)] a :=
  ⟨by decide, fun _ => rfl⟩

/-- A listed byte after moments without one, and a byte of the cycle. -/
theorem witness_GetcResult :
    (∃ s : State, s.SuppliesByte 0x41 [.pause] ∧ s.inEnd = .closed) ∧
    (∃ s : State, s.SuppliesByte 0x41 [.byte 0x42] ∧ s.inq = [.pause]) :=
  ⟨⟨{ (start [] []).closeInput with inq := [.pause, .pause, .byte 0x41, .pause] }, .inl ⟨2, rfl⟩, rfl⟩,
    ⟨{ (start [] []).supplyForever [.pause, .byte 0x41, .byte 0x42] with inq := [.pause] }, .inr ⟨1, 1, rfl, rfl⟩, rfl⟩⟩

theorem witness_InResult : ∃ s : State, s.SuppliesByte 0x79 [] ∧ s.cfg.inPrompt = [0x3E] :=
  ⟨(start [] []).supplyInput (.byte 0x79), .inl ⟨0, rfl⟩, rfl⟩

theorem witness_InputExhaustedOrWaiting :
    (∃ s : State, s.SuppliesNone ∧ s.inEnd = .closed) ∧ (∃ s : State, s.SuppliesNone ∧ s.inEnd = .ongoing [.pause]) :=
  ⟨⟨(start [] []).closeInput, ⟨⟨0, rfl⟩, ⟨0, rfl⟩⟩, rfl⟩,
    ⟨((start [] []).supplyInput .pause).supplyForever [.pause], ⟨⟨1, rfl⟩, ⟨1, rfl⟩⟩, rfl⟩⟩

theorem witness_InputWait :
    (∃ s : State, s.run = .waiting .inp ∧ s.SuppliesNone ∧ s.inEnd ≠ .closed) ∧
    (∃ s : State, s.run = .waiting .getc ∧ s.SuppliesNone ∧ s.inEnd = .closed) ∧
    (∃ s : State, s.run = .waiting .inp ∧ s.SuppliesByte 0xFF []) :=
  ⟨⟨{ start [] [] with run := .waiting .inp, inq := [.pause] }, rfl, ⟨⟨1, rfl⟩, ⟨0, rfl⟩⟩, by decide⟩,
    ⟨{ (start [] []).closeInput with run := .waiting .getc }, rfl, ⟨⟨0, rfl⟩, ⟨0, rfl⟩⟩, rfl⟩,
    ⟨{ start [] [] with run := .waiting .inp, inq := [.pause, .byte 0xFF] }, rfl, .inl ⟨1, rfl⟩⟩⟩

/-- The operands of OUT's and HALT's statements: both spellings of each. -/
theorem witness_OutResult_HaltResult :
    (Instr.out = .out ∨ Instr.out = .trap 0x21) ∧ (Instr.trap 0x21 = .out ∨ Instr.trap 0x21 = .trap 0x21) ∧
    (Instr.halt = .halt ∨ Instr.halt = .trap 0x25) ∧ (Instr.trap 0x25 = .halt ∨ Instr.trap 0x25 = .trap 0x25) := by decide

/-- V68: the string runs over the top of memory. -/
theorem witness_PutsWritesTheString :
    ∃ (s : State) (l : List Word), l = [0x0041, 0x0042] ∧
      (∀ j (h : j < l.length), s.deviceAt (s.reg 0 + BitVec.ofNat 16 j) = none ∧
        Mem.read s.mem (s.reg 0 + BitVec.ofNat 16 j) = l[j] ∧ l[j] ≠ 0) ∧
      s.deviceAt (s.reg 0 + BitVec.ofNat 16 l.length) = none ∧ Mem.read s.mem (s.reg 0 + BitVec.ofNat 16 l.length) = 0 :=
  ⟨start [(0, 0xFFFF)] [(0xFFFF, 0x41), (0, 0x42)], [0x0041, 0x0042], rfl, by decide, by decide, by decide⟩

/-- V69: two packed cells, the second with a zero high byte. -/
theorem witness_PutspWritesThePackedString :
    ∃ (s : State) (l : List (Byte × Byte)), l = [(0x48, 0x65)] ∧
      (∀ j (h : j < l.length), s.deviceAt (s.reg 0 + BitVec.ofNat 16 j) = none ∧
        Mem.read s.mem (s.reg 0 + BitVec.ofNat 16 j) = l[j].2 ++ l[j].1 ∧ l[j].1 ≠ 0 ∧ l[j].2 ≠ 0) ∧
      s.deviceAt (s.reg 0 + BitVec.ofNat 16 l.length) = none ∧
      ∃ lo : Byte, lo ≠ 0 ∧ [0x6C] = [lo] ∧ Mem.read s.mem (s.reg 0 + BitVec.ofNat 16 l.length) = 0#8 ++ lo :=
  ⟨start [(0, 0x4000)] [(0x4000, 0x6548), (0x4001, 0x6C)], [(0x48, 0x65)], rfl, by decide, by decide, 0x6C, by decide, rfl, by decide⟩

/-- V70: the first cell's low byte is zero. -/
theorem witness_PutspWritesThePackedString_lowZero :
    ∃ s : State, s.deviceAt (s.reg 0 + BitVec.ofNat 16 0) = none ∧
      ∃ hi : Byte, Mem.read s.mem (s.reg 0 + BitVec.ofNat 16 0) = hi ++ 0#8 :=
  ⟨start [(0, 0x4000)] [(0x4000, 0x4100)], by decide, 0x41, by decide⟩

theorem witness_UnsupportedVectorResult :
    (((0x1F : BitVec 8) < 0x20 ∨ (0x25 : BitVec 8) < 0x1F)) ∧ ((0x26 : BitVec 8) < 0x20 ∨ (0x25 : BitVec 8) < 0x26) := by decide

theorem witness_ResResult :
    (0xDFFF : Word).extractLsb' 12 4 = 0xD ∧ (start [] []).cfg.unsupportedPolicy = .fatal ∧
    (withCfg (fun c => { c with unsupportedPolicy := .ignore }) (start [] [])).cfg.unsupportedPolicy = .ignore := by decide

theorem witness_ServicesChangeOnlyTheirRow :
    (∃ s t : State, exec (.trap 0x20) s = .next t) ∧ (∃ s t : State, exec (.trap 0x22) s = .next t) ∧
    (∃ s t : State, exec (.trap 0x26) s = .next t) ∧ (0x21 : BitVec 8) ≠ 0x20 ∧ (0x21 : BitVec 8) ≠ 0x22 ∧
    (0x21 : BitVec 8) ≠ 0x23 ∧ (0x21 : BitVec 8) ≠ 0x24 :=
  ⟨⟨start [] [], _, rfl⟩, ⟨start [] [], _, (servicePuts_empty (start [] []).link (by decide) (by decide)).1⟩, ⟨start [] [], _, rfl⟩, by decide, by decide, by decide, by decide⟩

/-- An unsafe end under FATAL, one at the end of input, and a normal one. -/
theorem witness_OnlyTheseCausesEndARun :
    (∃ s t : State, exec (.res 5) s = .next t ∧ s.Safe ∧ ¬ t.Safe ∧ s.cfg.unsupportedPolicy = .fatal) ∧
    (∃ s t : State, exec .getc s = .next t ∧ s.Safe ∧ ¬ t.Safe ∧ s.inEnd = .closed) ∧
    (∃ s t : State, exec .halt s = .next t ∧ s.run = .running ∧ t.run = .halted none) :=
  ⟨⟨start [] [], _, rfl, (fun _ => nofun), (fun h => h _ rfl), rfl⟩,
    ⟨(start [] []).closeInput, _, rfl, (fun _ => nofun), (fun h => h _ rfl), rfl⟩, ⟨start [] [], _, rfl, rfl, rfl⟩⟩

/-- Memory with 0x0101 in the `n` cells from `k`. -/
def filled : Nat → Nat → Mem
  | _, 0 => []
  | k, n + 1 => (k, 0x0101) :: filled (k + 1) n

theorem filled_low (k n : Nat) : ∀ c ∈ filled k n, k ≤ c.1 := by
  induction n generalizing k with
  | zero => simp [filled]
  | succ n ih =>
    intro c hc
    rcases List.mem_cons.1 hc with rfl | hc
    · exact Nat.le_refl k
    · exact Nat.le_of_succ_le (ih (k + 1) c hc)

theorem filled_wf (k n : Nat) (h : k + n ≤ 65536) : Mem.wf (filled k n) = true := by
  induction n generalizing k with
  | zero => rfl
  | succ n ih =>
    exact (Mem.wf_cons _ _ _).2 ⟨by omega, by decide, fun c hc => filled_low (k + 1) n c hc, ih (k + 1) (by omega)⟩

theorem filled_read (k n : Nat) (a : Word) (h1 : k ≤ a.toNat) (h2 : a.toNat < k + n) : Mem.read (filled k n) a = 0x0101 := by
  induction n generalizing k with
  | zero => omega
  | succ n ih =>
    simp only [filled, Mem.read]
    split
    · rfl
    · exact ih (k + 1) (by omega) (by omega)

/-- A scan over memory that holds 0x0101 everywhere, with no device, meets no terminator (44_trap_system.md R223). -/
theorem filled_scan (n : Nat) (p : Word) (s : State) (hm : s.mem = filled 0 65536) (hd : ∀ a, s.deviceAt a = none) :
    scanPuts n p s = none ∧ scanPutsp n p s = none := by
  induction n generalizing p s with
  | zero => exact ⟨rfl, rfl⟩
  | succ n ih =>
    have hv : (s.memRead p).1 = 0x0101 := by
      rw [State.memRead_fst, s.afterRead_plain p (hd p), hm]
      exact filled_read 0 65536 p (Nat.zero_le _) (by have := p.isLt; omega)
    have hs : (s.memRead p).2 = s := by rw [State.memRead_snd, s.afterRead_plain p (hd p)]
    constructor
    · simp only [scanPuts, hv, hs]
      rw [if_neg (by decide)]
      exact (ih (p + 1) (s.out _) hm hd).1
    · simp only [scanPutsp, hv, hs]
      rw [if_neg (by decide), if_neg (by decide)]
      exact (ih (p + 1) ((s.out _).out _) hm hd).2

theorem witness_ScanFaultIsAHang :
    ∃ (s : State) (p : Word), Mem.wf s.mem = true ∧ scanPuts (scanFuel s) p s = none ∧ scanPutsp (scanFuel s) p s = none :=
  ⟨{ withCfg (fun c => { c with devices := [] }) (start [] []) with mem := filled 0 65536 }, 0x4000,
    filled_wf 0 65536 (Nat.le_refl _), (filled_scan _ _ _ rfl fun _ => rfl).1, (filled_scan _ _ _ rfl fun _ => rfl).2⟩

/-- A core whose memory holds 0x0101 everywhere, with `devices` registered and the input stream going on with `cycle`. -/
def full (devices : List (Word × Device)) (cycle : List HostInput) : State :=
  { withCfg (fun c => { c with devices := devices }) ((start [] []).supplyForever cycle) with mem := filled 0 65536 }

theorem full_read (devices : List (Word × Device)) (cycle : List HostInput) (a : Word) :
    Mem.read (full devices cycle).mem a = 0x0101 :=
  filled_read 0 65536 a (Nat.zero_le _) (by have := a.isLt; omega)

theorem witness_UnterminatedScansNeverEnd :
    (∃ s : State, Mem.wf s.mem = true ∧ ∀ a, s.deviceAt a = none ∧ Mem.read s.mem a ≠ 0 ∧
      lowByte (Mem.read s.mem a) ≠ 0 ∧ highByte (Mem.read s.mem a) ≠ 0) ∧
    (∃ s : State, Mem.wf s.mem = true ∧ s.DefaultKeyboard ∧ s.cfg.kbsrAddr ≠ s.cfg.kbdrAddr ∧ s.cfg.kbReady ≠ 0 ∧
      s.inEnd.cycle ≠ [] ∧ (∀ e ∈ s.inq ++ s.inEnd.cycle, ∃ c : Byte, c ≠ 0 ∧ e = .byte c) ∧
      ∀ a, a ≠ s.cfg.kbsrAddr → Mem.read s.mem a ≠ 0) := by
  have hwf : Mem.wf (filled 0 65536) = true := filled_wf 0 65536 (Nat.le_refl _)
  refine ⟨⟨full [] [], hwf, fun a => ?_⟩,
    ⟨full [(0xFE00, .keyboard)] [.byte 0x41], hwf, ⟨rfl, rfl⟩, ?_, ?_, ?_, ?_, fun a _ => ?_⟩⟩
  · rw [full_read]; exact ⟨rfl, by decide⟩
  · exact (by decide : (0xFE00 : Word) ≠ 0xFE02)
  · exact (by decide : (0x8000 : Word) ≠ 0)
  · exact List.cons_ne_nil _ _
  · intro e he; exact ⟨0x41, by decide, List.mem_singleton.1 he⟩
  · rw [full_read]; decide

theorem witness_EveryInstructionCompletesOnTheDefaultPlatform :
    (Mem.wf State.reset.mem = true ∧ State.reset.DefaultKeyboard ∧ State.reset.NotEndlesslyReady) ∧
    (∃ s : State, Mem.wf s.mem = true ∧ s.DefaultKeyboard ∧ ¬ s.NotEndlesslyReady ∧
      Instr.getc ∉ [.puts, .putsp, .trap 0x22, .trap 0x24] ∧ Instr.putsp ∈ [.putsp, .trap 0x24] ∧
      lowByte s.cfg.kbReady = 0 ∧ s.cfg.kbsrAddr ≠ s.cfg.kbdrAddr) ∧
    (∃ s : State, Mem.wf s.mem = true ∧ s.DefaultKeyboard ∧ s.NotEndlesslyReady ∧ s.inEnd.cycle ≠ []) :=
  ⟨⟨rfl, ⟨rfl, rfl⟩, .inl rfl⟩,
    ⟨(start [] []).supplyForever [.byte 0x41], rfl, ⟨rfl, rfl⟩, 
      by simp [State.NotEndlesslyReady, State.supplyForever, InputEnd.cycle], by decide, by decide, by decide, by decide⟩,
    ⟨(start [] []).supplyForever [.byte 0x41, .pause], rfl, ⟨rfl, rfl⟩, .inr (by decide), by decide⟩⟩

theorem witness_WritersOfCond :
    (∃ s t : State, exec (.addImm 0 1 5) s = .next t ∧
      Instr.addImm 0 1 5 ∈ [.add 0 1 2, .addImm 0 1 5, .and 0 1 2, .andImm 0 1 5, .not 0 1, .ld 0 3, .ldi 0 3, .ldr 0 1 4, .lea 0 3]) ∧
    (∃ s t : State, exec (.jsrr 1) s = .next t ∧
      Instr.jsrr 1 ∈ [.st 1 3, .sti 1 3, .str 1 2 4, .br 7 3, .nop, .jmp 1, .ret, .jsr 6, .jsrr 1, .out, .puts, .putsp, .halt,
        .rti, .res 9]) ∧
    (∃ s t : State, exec (.trap 0x21) s = .next t ∧ (0x21 : BitVec 8) ≠ 0x20 ∧ (0x21 : BitVec 8) ≠ 0x23) ∧
    (∃ s t : State, exec .getc s = .next t ∧ Instr.getc ∈ [.getc, .inp, .trap 0x20, .trap 0x23]) :=
  ⟨⟨start [] [], _, rfl, by decide⟩, ⟨start [] [], _, rfl, by decide⟩, ⟨start [] [], _, rfl, by decide, by decide⟩,
    ⟨start [] [], _, rfl, by decide⟩⟩

theorem witness_FetchRule : (start [] []).deviceAt (start [] []).pc = none := by decide

theorem witness_StepRunsTheDecodedInstruction :
    ∃ s : State, s.run = .running ∧ decode (s.memRead s.pc).1 = .rti ∧ s.deviceAt s.pc = none ∧
      decode (Mem.read s.mem s.pc) = .rti :=
  ⟨(start [] []).memWrite 0x3000 0x8000, rfl, by decide, by decide, by decide⟩

/-- A fetch at the status cell: the word taken is the one the activation wrote (40_cycle.md R141). -/
theorem witness_StepRunsTheDecodedInstruction_device :
    ∃ s : State, s.run = .running ∧ s.deviceAt s.pc = some .keyboard ∧ decode (s.memRead s.pc).1 = .rti :=
  ⟨{ start [] [] with pc := 0xFE00, inq := [.byte 1] }, rfl, by decide, by decide⟩

theorem witness_PlacedWordRunsNext : Mem.wf State.reset.mem = true ∧ Mem.wf [(0xFE00, (1 : Word))] = true := by decide

theorem witness_HaltedTakesNoStep :
    (∃ s : State, s.run = .halted none) ∧ (∃ s : State, s.run = .halted (some (.unsupportedOpcode 0xD 0xD000 0x3000))) :=
  ⟨⟨(start [] []).halt, rfl⟩, ⟨(start [] []).raiseFatal _, rfl⟩⟩

theorem witness_StepKeepsTheInvariant :
    (∃ s t : State, s.Inv ∧ step s = .next t ∧ t.run = .halted (some (.unsupportedTrapVector 0x26 0x3000))) ∧
    (∃ s t : State, s.Inv ∧ step s = .next t ∧ t.run = .waiting .getc) :=
  ⟨⟨(start [] []).memWrite 0x3000 0xF026, _, ⟨rfl, trivial⟩, rfl, rfl⟩,
    ⟨(start [] []).memWrite 0x3000 0xF020, _, ⟨rfl, trivial⟩, rfl, rfl⟩⟩

/-- For the statements about every step that answers a next state: one of a running, a waiting and a constructed core. -/
theorem witness_StepKeepsTheParameters :
    (∃ s t : State, step s = .next t ∧ s.run = .running) ∧ (∃ s t : State, step s = .next t ∧ s.run = .waiting .inp) ∧
    (∃ s t : State, step s = .next t ∧ s.run = .constructed) :=
  ⟨⟨(start [] []).memWrite 0x3000 0xF021, _, rfl, rfl⟩, ⟨{ start [] [] with run := .waiting .inp }, _, rfl, rfl⟩,
    ⟨State.reset.supplyImage [0x30, 0x00, 0xF0, 0x25], _, rfl, rfl⟩⟩

theorem witness_StepMovesTheStreamsForward :
    ∃ s t : State, step s = .next t ∧ t.outq = [0x3E, 0x79] ∧ s.inq = [.byte 0x79] ∧ t.inq = [] :=
  ⟨{ (start [] []).memWrite 0x3000 0xF023 with inq := [.byte 0x79] }, _, rfl, rfl, rfl, rfl⟩

theorem witness_StepNeverUndoesBoot : ∃ s t : State, step s = .next t ∧ s.run = .constructed ∧ s.image ≠ none ∧ t.image = none :=
  ⟨State.reset.supplyImage [0x30, 0x00, 0xF0, 0x25], _, rfl, rfl, by decide, rfl⟩

theorem witness_NextPcOfEveryInstruction :
    (∃ s t : State, exec (.br 2 5) s = .next t) ∧ (∃ s t : State, exec (.jsrr 7) s = .next t) ∧
    (∃ s t : State, exec .putsp s = .next t) :=
  ⟨⟨start [] [], _, rfl⟩, ⟨start [] [], _, rfl⟩, ⟨start [] [], _, (servicePuts_empty (start [] []).link (by decide) (by decide)).2⟩⟩

/-- V94: one word, into the last cell; the first cell below it is outside the image. -/
theorem witness_BootLoadsTheImage :
    ∃ (s : State) (b0 b1 : Byte) (ws : List (Byte × Byte)), s.run = .constructed ∧ Mem.wf s.mem = true ∧
      s.image = some (b0 :: b1 :: ws.flatMap (fun w => [w.1, w.2])) ∧ ws ≠ [] ∧
      b0.toNat * 256 + b1.toNat + ws.length ≤ 65536 ∧ (0xFFFE : Word).toNat < b0.toNat * 256 + b1.toNat :=
  ⟨State.reset.supplyImage [0xFF, 0xFF, 0x12, 0x34], 0xFF, 0xFF, [(0x12, 0x34)], rfl, rfl, rfl, by decide, by decide, by decide⟩

/-- V92, V93, V95, and a machine without an image. -/
theorem witness_BootRejectsMalformedImages :
    (∃ s : State, s.run = .constructed ∧ ∃ bytes, s.image = some bytes ∧ bytes.length < 4) ∧
    (∃ s : State, s.run = .constructed ∧ ∃ bytes, s.image = some bytes ∧ bytes.length % 2 = 1) ∧
    (∃ s : State, s.run = .constructed ∧ ∃ (b0 b1 : Byte) (body : List Byte), s.image = some (b0 :: b1 :: body) ∧
      65536 < b0.toNat * 256 + b1.toNat + body.length / 2) ∧
    (∃ s : State, s.run = .constructed ∧ s.image = none) :=
  ⟨⟨State.reset.supplyImage [0x30, 0x00], rfl, [0x30, 0x00], rfl, by decide⟩,
    ⟨State.reset.supplyImage [0x30, 0x00, 0x12, 0x34, 0x56], rfl, [0x30, 0x00, 0x12, 0x34, 0x56], rfl, by decide⟩,
    ⟨State.reset.supplyImage [0xFF, 0xFF, 0x12, 0x34, 0x56, 0x78], rfl, 0xFF, 0xFF, [0x12, 0x34, 0x56, 0x78], rfl, by decide⟩,
    ⟨State.reset, rfl, rfl⟩⟩

end Sys2Proof.Tests
end

section
/-! Sign-extended fields as integers (00_scope.md R11, R12; 30_encoding.md R112). -/

namespace Sys2Proof.Machine

/-- R12 at every width `n`: the field's signed value, `v - 2^n` when its top bit is set, is what the wrapping sum adds. -/
theorem add_signExtend_eq_ofInt {n : Nat} (a : Word) (v : BitVec n) :
    a + v.signExtend 16 =
      BitVec.ofInt 16 (a.toNat + (if v.msb then (v.toNat : Int) - (2 ^ n : Nat) else v.toNat)) := by
  have word_as_int : a = BitVec.ofInt 16 a.toNat := by
    rw [BitVec.ofInt_natCast, BitVec.ofNat_toNat, BitVec.setWidth_eq]
  calc a + v.signExtend 16
      = BitVec.ofInt 16 a.toNat + BitVec.ofInt 16 v.toInt := by rw [← word_as_int, BitVec.signExtend]
    _ = BitVec.ofInt 16 (a.toNat + v.toInt) := (BitVec.ofInt_add _ _).symm
    _ = _ := by rw [BitVec.toInt_eq_msb_cond]

/-- Settles O6: each `sext` is the sign extension of its field, so the four clauses are one fact at the widths 5, 6, 9, 11. -/
theorem signExtensionOfFields : Obligations.SignExtensionOfFields :=
  ⟨add_signExtend_eq_ofInt (n := 5), add_signExtend_eq_ofInt (n := 6),
    add_signExtend_eq_ofInt (n := 9), add_signExtend_eq_ofInt (n := 11)⟩

end Sys2Proof.Machine
end

section
/-! The flag rule and the flag-updating write (10_state.md R37). -/

namespace Sys2Proof.Machine

/-- Every Word sets one of N, Z and P (R36). -/
theorem setcc_ne_none (v : Word) : setcc v ≠ .none := by
  unfold setcc
  split
  · simp
  · split <;> simp

/-- The flags of a flag-updating write are those of the value it stored (R37). -/
theorem State.setReg_cond_eq_setcc_reg (s : State) (r : Reg) (v : Word) :
    (s.setReg r v).cond = setcc ((s.setReg r v).reg r) := by simp

/-- Settles O7: `setcc` is R37's table by definition, and what the write does to the registers is read off `setReg_reg`. -/
theorem flagRule : Obligations.FlagRule := by
  intro s r v
  have other_registers : s.SameRegsBut r (s.setReg r v) := fun q hq => by rw [State.setReg_reg, if_neg hq]
  exact ⟨rfl, by simp, s.setReg_cond_eq_setcc_reg r v, other_registers⟩

end Sys2Proof.Machine
end

section
/-! Everything `exec` can do, by the instruction's class: the one inversion lemma the invariants below rest on. -/

namespace Sys2Proof.Machine

/-- What decides how an instruction treats COND (10_state.md R34, R38). -/
inductive InstrClass where
  /-- Its result goes to DR through the flag-updating write. -/
  | result (dr : Reg)
  /-- It runs the trap dispatcher on a vector. -/
  | service (v : BitVec 8)
  /-- It stores, jumps, stops or does nothing. -/
  | plain

/-- The class of an instruction; a service's own name stands for its vector (30_encoding.md R113, R121). -/
def classOf : Instr → InstrClass
  | .add dr _ _ | .addImm dr _ _ | .and dr _ _ | .andImm dr _ _ | .not dr _ | .ld dr _ | .ldi dr _ | .ldr dr _ _
  | .lea dr _ => .result dr
  | .trap v => .service v
  | .getc => .service 0x20
  | .out => .service 0x21
  | .puts => .service 0x22
  | .inp => .service 0x23
  | .putsp => .service 0x24
  | .halt => .service 0x25
  | .br _ _ | .nop | .jmp _ | .ret | .jsr _ | .jsrr _ | .st _ _ | .sti _ _ | .str _ _ _ | .rti | .res _ => .plain

/-- What an instruction of each class can do to `s`; `ScanRel s u` covers the reads that come before the write. -/
inductive ExecEffect (s : State) : InstrClass → State → Prop where
  | write {u : State} (reads : ScanRel s u) (dr : Reg) (v : Word) : ExecEffect s (.result dr) (u.setReg dr v)
  | store {u : State} (reads : ScanRel s u) (a v : Word) : ExecEffect s .plain (u.memWrite a v)
  | jump (target : Word) : ExecEffect s .plain (s.setPc target)
  | call (target : Word) : ExecEffect s .plain (s.link.setPc target)
  | stay : ExecEffect s .plain s
  | fatal (e : FatalErr) : ExecEffect s .plain (s.raiseFatal e)
  | trap {v : BitVec 8} {t : State} (run : trapService v s.link = .next t) : ExecEffect s (.service v) t

/-- A branch jumps, or stays at `pc'` (42_control.md R170). -/
theorem State.branch_effect (s : State) (mask : BitVec 3) (off9 : BitVec 9) :
    ExecEffect s .plain (s.branch mask off9) := by
  unfold State.branch
  split
  · exact .jump _
  · exact .stay

/-- JSRR links and jumps in either order of its reads (42_control.md R174). -/
theorem execJsrr_effect {base : Reg} {s t : State} (h : execJsrr base s = .next t) : ExecEffect s .plain t := by
  cases h
  split
  · exact .call _
  · exact .call _

/-- RES ends in its error or does nothing (44_trap_system.md R222). -/
theorem execRes_effect {low12 : BitVec 12} {s t : State} (h : execRes low12 s = .next t) : ExecEffect s .plain t := by
  unfold execRes at h
  split at h
  · cases h; exact .fatal _
  · cases h; exact .stay

/-- Everything an instruction that completes can do. -/
theorem exec_effect {i : Instr} {s t : State} (h : exec i s = .next t) : ExecEffect s (classOf i) t := by
  cases i with
  | add | addImm | and | andImm | not | lea => cases h; exact .write (.refl s) _ _
  | ld | ldr => cases h; exact .write (.read s _) _ _
  | ldi => cases h; exact .write ((ScanRel.read s _).trans (.read _ _)) _ _
  | st | str => cases h; exact .store (.refl s) _ _
  | sti => cases h; exact .store (.read s _) _ _
  | br | nop => cases h; exact s.branch_effect _ _
  | jmp | ret => cases h; exact .jump _
  | jsr => cases h; exact .call _
  | jsrr => exact execJsrr_effect h
  | rti => cases h; exact .stay
  | res => exact execRes_effect h
  | trap | getc | out | puts | inp | putsp | halt => exact .trap h

end Sys2Proof.Machine
end

section
/-! Who writes COND (10_state.md R34, R38), and that no step loses a flag (R36, R39). -/

namespace Sys2Proof.Machine

/-- A blocking read leaves COND or sets it from the byte it put in R0 (44_trap_system.md R213). -/
theorem State.trapInput_cond (s : State) (svc : InputService) :
    (s.trapInput svc).cond = s.cond ∨ (s.trapInput svc).cond = setcc ((s.trapInput svc).reg 0) := by
  rcases s.trapInput_cases svc with ⟨c, rest, _, h⟩ | ⟨_, _, h⟩ | ⟨_, _, h⟩
  · rw [h, State.inputDone_cond, State.inputDone_reg, if_pos rfl]
    split
    · exact .inr rfl
    · exact .inl rfl
  · rw [h]; exact .inl rfl
  · rw [h]; exact .inl rfl

/-- GETC and IN are the only services that can touch COND, and they set it from R0 (R38). -/
theorem trapService_cond {v : BitVec 8} {s t : State} (h : trapService v s = .next t) :
    t.cond = s.cond ∨ (v = 0x20 ∨ v = 0x23) ∧ t.cond = setcc (t.reg 0) := by
  rcases trapService_cases v s with ⟨hv, e⟩ | ⟨_, e⟩ | ⟨_, e⟩ | ⟨hv, e⟩ | ⟨_, e⟩ | ⟨_, e⟩ | ⟨_, e⟩ <;> rw [e] at h
  · cases h; exact (s.trapInput_cond .getc).imp_right fun hc => ⟨.inl hv, hc⟩
  · cases h; exact .inl rfl
  · exact .inl (scanPuts_rel (scanOutcome_next.1 h)).cond
  · cases h; exact ((s.outAll s.cfg.inPrompt).trapInput_cond .inp).imp_right fun hc => ⟨.inr hv, hc⟩
  · exact .inl (scanPutsp_rel (scanOutcome_next.1 h)).cond
  · cases h; exact .inl rfl
  · cases h
    rcases s.serviceUnsupported_cases v with ⟨_, e⟩ | ⟨_, e⟩
    · rw [e]; exact .inl rfl
    · rw [e]; exact .inl rfl

/-- An instruction with a result leaves COND at the flags of DR. -/
theorem ExecEffect.cond_of_result {dr : Reg} {s t : State} (h : ExecEffect s (.result dr) t) :
    t.cond = setcc (t.reg dr) := by
  cases h with
  | write _ _ v => exact State.setReg_cond_eq_setcc_reg _ dr v

/-- Stores, jumps and stops leave COND. -/
theorem ExecEffect.cond_of_plain {s t : State} (h : ExecEffect s .plain t) : t.cond = s.cond := by
  cases h with
  | store reads => exact reads.cond
  | jump | call | stay | fatal => rfl

/-- A trap's link write leaves COND, so what it does to COND is what its service does. -/
theorem ExecEffect.cond_of_service {v : BitVec 8} {s t : State} (h : ExecEffect s (.service v) t) :
    t.cond = s.cond ∨ (v = 0x20 ∨ v = 0x23) ∧ t.cond = setcc (t.reg 0) := by
  cases h with
  | trap run => simpa using trapService_cond run

/-- A service other than GETC and IN leaves COND. -/
theorem ExecEffect.cond_of_other_service {v : BitVec 8} {s t : State} (h : ExecEffect s (.service v) t)
    (hgetc : v ≠ 0x20) (hin : v ≠ 0x23) : t.cond = s.cond :=
  h.cond_of_service.resolve_right fun ⟨hv, _⟩ => hv.elim hgetc hin

/-- Settles O45: the class of an instruction decides what it does to COND. -/
theorem writersOfCond : Obligations.WritersOfCond := by
  intro s t dr a b imm5 off6 off9 off11 mask v low12 i h
  have effect := exec_effect h
  refine ⟨fun hi => ?_, fun hi => ?_, fun hi hgetc hin => ?_, fun hi => ?_⟩
  · have has_result : classOf i = .result dr := by
      simp only [List.mem_cons, List.not_mem_nil, or_false] at hi
      rcases hi with rfl | rfl | rfl | rfl | rfl | rfl | rfl | rfl | rfl <;> rfl
    rw [has_result] at effect
    exact effect.cond_of_result
  · have no_flags : classOf i = .plain ∨ ∃ w, classOf i = .service w ∧ w ≠ 0x20 ∧ w ≠ 0x23 := by
      simp only [List.mem_cons, List.not_mem_nil, or_false] at hi
      rcases hi with rfl | rfl | rfl | rfl | rfl | rfl | rfl | rfl | rfl | rfl | rfl | rfl | rfl | rfl | rfl <;>
        simp [classOf]
    rcases no_flags with hc | ⟨w, hc, hgetc, hin⟩ <;> rw [hc] at effect
    · exact effect.cond_of_plain
    · exact effect.cond_of_other_service hgetc hin
  · subst hi
    exact effect.cond_of_other_service hgetc hin
  · have is_service : ∃ w, classOf i = .service w := by
      simp only [List.mem_cons, List.not_mem_nil, or_false] at hi
      rcases hi with rfl | rfl | rfl | rfl <;> exact ⟨_, rfl⟩
    obtain ⟨w, hc⟩ := is_service
    rw [hc] at effect
    exact effect.cond_of_service.imp_right And.right

/-- Every instruction leaves COND or sets it by the flag rule. -/
theorem ExecEffect.cond_cases {c : InstrClass} {s t : State} (h : ExecEffect s c t) :
    t.cond = s.cond ∨ ∃ v, t.cond = setcc v := by
  cases c with
  | result => exact .inr ⟨_, h.cond_of_result⟩
  | plain => exact .inl h.cond_of_plain
  | service => exact h.cond_of_service.imp_right fun ⟨_, hc⟩ => ⟨_, hc⟩

/-- A step leaves COND or sets it by the flag rule (R38). -/
theorem step_cond_cases {s t : State} (h : step s = .next t) : t.cond = s.cond ∨ ∃ v, t.cond = setcc v := by
  rcases step_cases h with ⟨_, hexec⟩ | ⟨svc, _, rfl⟩ | ⟨_, hboot⟩
  · exact s.fetch_rel.cond ▸ (exec_effect hexec).cond_cases
  · exact (State.trapInput_cond { s with run := .running } svc).imp_right fun hc => ⟨_, hc⟩
  · obtain ⟨_, _, _, _, _, rfl⟩ := bootStep_next hboot
    exact .inl rfl

/-- Settles O8: COND is kept, or set to a value of `setcc`, which is never NONE. -/
theorem aFlagStaysSet : Obligations.AFlagStaysSet := by
  intro s t h hflag
  rcases step_cond_cases h with hc | ⟨v, hc⟩ <;> rw [hc]
  · exact hflag
  · exact setcc_ne_none v

end Sys2Proof.Machine
end

section
/-! What every step keeps: the parameters, the direction of the streams, and that boot is not undone (10_state.md R45 to R47). -/

namespace Sys2Proof.Machine

/-- The machine went on from `s` to `t`: the parameters stay (R46), the output grows and the input is consumed (R47), the
pending image is kept or consumed, and a booted core stays booted (R45). -/
structure State.Advances (s t : State) : Prop where
  cfg : t.cfg = s.cfg
  outq : ∃ l, t.outq = s.outq ++ l
  input : s.ConsumesInput t
  image : t.image = s.image ∨ t.image = none
  booted : s.run ≠ .constructed → t.run ≠ .constructed

theorem State.Advances.trans {s t u : State} (h : s.Advances t) (k : t.Advances u) : s.Advances u where
  cfg := k.cfg.trans h.cfg
  outq := by
    obtain ⟨l, hl⟩ := h.outq
    obtain ⟨l', hl'⟩ := k.outq
    exact ⟨l ++ l', by rw [hl', hl, List.append_assoc]⟩
  input := h.input.trans k.input
  image := by
    rcases k.image with hk | hk
    · exact hk ▸ h.image
    · exact .inr hk
  booted := fun hs => k.booted (h.booted hs)

/-- Changing only registers, pc, COND or memory is going on. -/
theorem State.Advances.of_sameRest {s t : State} (h : s.SameRest t) : s.Advances t := by
  obtain ⟨hrun, hinq, hend, houtq, himage, hcfg⟩ := h
  exact ⟨hcfg, ⟨[], by simp [houtq]⟩, .of_same hinq hend, .inl himage, fun hs => hrun ▸ hs⟩

/-- A run of reads and outputs goes on. -/
theorem ScanRel.advances {s t : State} (h : ScanRel s t) : s.Advances t :=
  ⟨h.cfg, h.outq, h.input, .inl h.image, fun hs => h.run ▸ hs⟩

/-- A machine that enters a run state after boot goes on. -/
theorem State.Advances.setRun (s : State) {r : RunState} (hr : r ≠ .constructed) : s.Advances { s with run := r } :=
  ⟨rfl, ⟨[], by simp⟩, .of_same rfl rfl, .inl rfl, fun _ => hr⟩

theorem State.Advances.raiseFatal (s : State) (e : FatalErr) : s.Advances (s.raiseFatal e) :=
  .setRun s (by simp)

theorem State.Advances.outAll (s : State) (bs : List Byte) : s.Advances (s.outAll bs) :=
  ⟨rfl, ⟨bs, rfl⟩, .of_same rfl rfl, .inl rfl, id⟩

theorem State.Advances.inputDone (s : State) (c : Byte) (svc : InputService) : s.Advances (s.inputDone c svc) := by
  obtain ⟨_, _, hrun, hinq, hend, himage, hcfg⟩ := s.inputDone_frame c svc
  exact ⟨hcfg, ⟨_, s.inputDone_outq c svc⟩, .of_same hinq hend, .inl himage, fun hs => hrun ▸ hs⟩

/-- A blocking read takes its byte and completes, ends in its error, or waits. -/
theorem State.Advances.trapInput (s : State) (svc : InputService) : s.Advances (s.trapInput svc) := by
  rcases s.trapInput_cases svc with ⟨c, rest, htake, h⟩ | ⟨_, _, h⟩ | ⟨_, _, h⟩ <;> rw [h]
  · have taken : s.Advances { s with inq := rest } :=
      ⟨rfl, ⟨[], by simp⟩, State.takeByte_consumes htake, .inl rfl, id⟩
    exact taken.trans (.inputDone _ c svc)
  · exact .raiseFatal s _
  · exact .setRun s (by simp)

/-- Every service goes on. -/
theorem trapService_advances {v : BitVec 8} {s t : State} (h : trapService v s = .next t) : s.Advances t := by
  rcases trapService_cases v s with ⟨_, e⟩ | ⟨_, e⟩ | ⟨_, e⟩ | ⟨_, e⟩ | ⟨_, e⟩ | ⟨_, e⟩ | ⟨_, e⟩ <;> rw [e] at h
  · cases h; exact .trapInput s .getc
  · cases h; exact (ScanRel.out s _).advances
  · exact (scanPuts_rel (scanOutcome_next.1 h)).advances
  · cases h; exact (State.Advances.outAll s _).trans (.trapInput _ .inp)
  · exact (scanPutsp_rel (scanOutcome_next.1 h)).advances
  · cases h; exact (State.Advances.outAll s _).trans (.setRun _ (by simp))
  · cases h
    rcases s.serviceUnsupported_cases v with ⟨_, e⟩ | ⟨_, e⟩ <;> rw [e]
    · exact .raiseFatal s _
    · exact (ScanRel.refl s).advances

/-- Every instruction goes on: its reads and its service do, and its writes touch no stream. -/
theorem ExecEffect.advances {c : InstrClass} {s t : State} (h : ExecEffect s c t) : s.Advances t := by
  cases h with
  | write reads | store reads => exact reads.advances.trans (.of_sameRest ⟨rfl, rfl, rfl, rfl, rfl, rfl⟩)
  | jump | call | stay => exact .of_sameRest ⟨rfl, rfl, rfl, rfl, rfl, rfl⟩
  | fatal e => exact .raiseFatal s e
  | trap run =>
    have link_advances : s.Advances s.link := .of_sameRest ⟨rfl, rfl, rfl, rfl, rfl, rfl⟩
    exact link_advances.trans (trapService_advances run)

/-- A fetch changes, beyond what its read does, only pc. -/
theorem State.Advances.fetch (s : State) : s.Advances s.fetch.2 :=
  s.fetch_rel.advances.trans (.of_sameRest ⟨rfl, rfl, rfl, rfl, rfl, rfl⟩)

theorem bootStep_advances {s t : State} (h : bootStep s = .next t) : s.Advances t := by
  obtain ⟨_, _, _, _, _, rfl⟩ := bootStep_next h
  exact ⟨rfl, ⟨[], by simp⟩, .of_same rfl rfl, .inr rfl, fun _ => by simp⟩

/-- Every step goes on: it fetches and executes, completes a wait, or boots. -/
theorem step_advances {s t : State} (h : step s = .next t) : s.Advances t := by
  rcases step_cases h with ⟨_, hexec⟩ | ⟨svc, _, rfl⟩ | ⟨_, hboot⟩
  · exact (State.Advances.fetch s).trans (exec_effect hexec).advances
  · exact (State.Advances.setRun s (by simp)).trans (.trapInput _ svc)
  · exact bootStep_advances hboot

/-- The core has booted after every step: it had before, or this step was boot (R45, 70_reset_and_hazards.md R281). -/
theorem step_run_ne_constructed {s t : State} (h : step s = .next t) : t.run ≠ .constructed := by
  rcases step_cases h with ⟨hrun, _⟩ | ⟨_, hrun, _⟩ | ⟨_, hboot⟩
  · exact (step_advances h).booted (by simp [hrun])
  · exact (step_advances h).booted (by simp [hrun])
  · obtain ⟨_, _, _, _, _, rfl⟩ := bootStep_next hboot
    simp

/-- Settles O53: going on keeps the parameters. -/
theorem stepKeepsTheParameters : Obligations.StepKeepsTheParameters :=
  fun _ _ h => (step_advances h).cfg

/-- Settles O54: going on appends to the output and consumes the input from its front. -/
theorem stepMovesTheStreamsForward : Obligations.StepMovesTheStreamsForward :=
  fun _ _ h => ⟨(step_advances h).outq, (step_advances h).input⟩

/-- Settles O55: only construction makes a core constructed, and only boot touches the image. -/
theorem stepNeverUndoesBoot : Obligations.StepNeverUndoesBoot :=
  fun _ _ h => ⟨step_run_ne_constructed h, (step_advances h).image⟩

end Sys2Proof.Machine
end

section
/-! The memory primitives (20_memory.md R63, R64) and the keyboard's activation (R74), clause by clause. -/

namespace Sys2Proof.Machine

/-- Settles O16: the two clauses are the two ways `afterRead` goes, by whether a device is registered. -/
theorem memReadRule : Obligations.MemReadRule := by
  intro s a
  refine ⟨fun d hd => ?_, fun hd => ?_⟩
  · have activated : s.afterRead a = s.activate d := by cases d; exact s.afterRead_device a _ hd
    rw [State.memRead, activated]
  · rw [State.memRead, s.afterRead_plain a hd]

/-- Settles O17: a write is read back and touches no other cell; it never asks `deviceAt`. -/
theorem memWriteRule : Obligations.MemWriteRule := fun s a v =>
  ⟨Mem.read_write_same s.mem a v, fun b hb => Mem.read_write_other s.mem a b v hb, s.memWrite_reg a v, rfl, rfl,
    rfl, rfl, rfl, rfl, rfl, rfl⟩

/-- With a byte available, an activation writes the status and then the byte (R74). -/
theorem State.activateKeyboard_mem_of_byte {s : State} {c : Byte} {rest : List HostInput}
    (h : s.upcoming = .byte c :: rest) : s.activateKeyboard.mem =
      Mem.write (Mem.write s.mem s.cfg.kbsrAddr s.cfg.kbReady) s.cfg.kbdrAddr (BitVec.ofNat 16 c.toNat) := by
  simp [State.activateKeyboard, h, BitVec.ofNat_toNat]

/-- With no byte available, or the stream ended, an activation writes the status and nothing else (R65, R74). -/
theorem State.activateKeyboard_mem_of_none {s : State} (h : s.upcoming = [] ∨ ∃ rest, s.upcoming = .pause :: rest) :
    s.activateKeyboard.mem = Mem.write s.mem s.cfg.kbsrAddr s.cfg.kbNotReady := by
  rcases h with h | ⟨rest, h⟩ <;> simp [State.activateKeyboard, h]

/-- Settles O18: the data cell is written last and only with a byte, so each clause reads one or two writes back. -/
theorem keyboardActivation : Obligations.KeyboardActivation := by
  intro s hwf hne
  obtain ⟨hregs, hframe⟩ := s.activateKeyboard_frame
  have same_regs : s.SameRegs s.activateKeyboard := fun q => by rw [State.reg, hregs, State.reg]
  refine ⟨fun c rest h => ?_, fun h => ?_, s.activateKeyboard_other, same_regs, hframe⟩
  · rw [State.activate, State.activateKeyboard_mem_of_byte h]
    refine ⟨by rw [s.activateKeyboard_inq, h, List.tail_cons], ?_, ?_⟩
    · rw [Mem.read_write_other _ _ _ _ hne, Mem.read_write_same _ _ _ hwf]
    · exact Mem.read_write_same _ _ _ (Mem.wf_write _ _ _ hwf)
  · rw [State.activate, State.activateKeyboard_mem_of_none h]
    exact ⟨s.activateKeyboard_inq, Mem.read_write_same _ _ _ hwf, Mem.read_write_other _ _ _ _ hne.symm⟩

end Sys2Proof.Machine
end

section
/-! A step by its run state, and a store into the instruction stream (20_memory.md R80; 70_reset_and_hazards.md R291). -/

namespace Sys2Proof.Machine

/-- A running core executes the word it fetches (40_cycle.md R141, R143). -/
theorem step_of_running {s : State} (h : s.run = .running) : step s = exec (decode s.fetch.1) s.fetch.2 := by
  simp only [step, h]

/-- A constructed core boots (70_reset_and_hazards.md R281). -/
theorem step_of_constructed {s : State} (h : s.run = .constructed) : step s = bootStep s := by
  simp only [step, h]

/-- With no device at pc a step executes the word that pc's cell holds, in the state that differs in pc alone. -/
theorem step_of_running_plain {s : State} (hrun : s.run = .running) (hdev : s.deviceAt s.pc = none) :
    step s = exec (decode (Mem.read s.mem s.pc)) (s.setPc (s.pc + 1)) := by
  rw [step_of_running hrun, s.fetch_fst, s.fetch_snd, s.afterRead_plain s.pc hdev]

/-- Offset 0 addresses `pc'` itself. -/
theorem State.pcRel9_zero (s : State) : s.pcRel9 0 = s.pc := by
  simp [State.pcRel9, sext9]

/-- Settles O27: the store went to the cell at `pc'`, which is the cell the next step fetches. -/
theorem storeToNextInstructionIsFetched : Obligations.StoreToNextInstructionIsFetched := by
  intro s t sr hwf hrun hdev h
  have stored : t = s.memWrite s.pc (s.reg sr) := by
    cases h
    rw [s.pcRel9_zero]
  subst stored
  have fetched : Mem.read (s.memWrite s.pc (s.reg sr)).mem s.pc = s.reg sr := Mem.read_write_same s.mem s.pc _ hwf
  have next_step := step_of_running_plain (s := s.memWrite s.pc (s.reg sr)) hrun hdev
  rwa [State.memWrite_pc, fetched] at next_step

end Sys2Proof.Machine
end

section
/-! The canonical form of memory is unique: it lists exactly the cells that do not read zero (20_memory.md R60). -/

namespace Sys2Proof.Machine

/-- The first listed cell holds what is listed. -/
theorem Mem.read_head {k : Nat} (x : Word) (m : Mem) (hk : k < 65536) : Mem.read ((k, x) :: m) (BitVec.ofNat 16 k) = x := by
  simp [Mem.read, Nat.mod_eq_of_lt hk]

/-- Every other address reads in the rest of the list. -/
theorem Mem.read_tail {k : Nat} (x : Word) (m : Mem) {a : Word} (h : a.toNat ≠ k) : Mem.read ((k, x) :: m) a = Mem.read m a :=
  if_neg h

/-- An address that reads non-zero is not below the first listed cell. -/
theorem Mem.head_le_of_read_ne_zero {k : Nat} {x : Word} {m : Mem} (h : Mem.wf ((k, x) :: m) = true) {a : Word}
    (ha : Mem.read ((k, x) :: m) a ≠ 0) : k ≤ a.toNat := by
  obtain ⟨_, _, hall, _⟩ := (Mem.wf_cons k x m).1 h
  by_contra hlt
  refine ha (Mem.read_of_lt _ a fun c hc => ?_)
  rcases List.mem_cons.1 hc with rfl | hc
  · exact Nat.lt_of_not_le hlt
  · exact Nat.lt_trans (Nat.lt_of_not_le hlt) (hall c hc)

/-- A memory that reads non-zero where the other's first cell is starts at or before that cell. -/
theorem Mem.head_le_head {k k' : Nat} {x x' : Word} {m m' : Mem} (h : Mem.wf ((k, x) :: m) = true)
    (h' : Mem.wf ((k', x') :: m') = true) (alike : ∀ a, Mem.read ((k, x) :: m) a = Mem.read ((k', x') :: m') a) :
    k ≤ k' := by
  obtain ⟨hk', hx', _, _⟩ := (Mem.wf_cons k' x' m').1 h'
  have nonzero : Mem.read ((k, x) :: m) (BitVec.ofNat 16 k') ≠ 0 := by rwa [alike, Mem.read_head x' m' hk']
  simpa [Nat.mod_eq_of_lt hk'] using Mem.head_le_of_read_ne_zero h nonzero

/-- A memory with a listed cell does not read as the empty one. -/
theorem Mem.read_cons_ne_nil {k : Nat} {x : Word} {m : Mem} (h : Mem.wf ((k, x) :: m) = true) :
    ∃ a, Mem.read ((k, x) :: m) a ≠ Mem.read [] a := by
  obtain ⟨hk, hx, _, _⟩ := (Mem.wf_cons k x m).1 h
  exact ⟨BitVec.ofNat 16 k, by rw [Mem.read_head x m hk]; exact hx⟩

/-- The first cell's address is listed once: the rest of the list reads zero there. -/
theorem Mem.read_rest_at_head {k : Nat} {x : Word} {m : Mem} (h : Mem.wf ((k, x) :: m) = true) {a : Word}
    (ha : a.toNat = k) : Mem.read m a = 0 := by
  obtain ⟨_, _, hall, _⟩ := (Mem.wf_cons k x m).1 h
  exact Mem.read_of_lt m a fun c hc => ha ▸ hall c hc

/-- Settles O28, by induction on the cells: both memories start with the same cell, and then their rests read alike. -/
theorem canonicalMemoriesThatReadAlikeAreEqual : Obligations.CanonicalMemoriesThatReadAlikeAreEqual := by
  intro m
  induction m with
  | nil =>
    rintro (_ | ⟨⟨k', x'⟩, m'⟩) _ h' alike
    · rfl
    · obtain ⟨a, ha⟩ := Mem.read_cons_ne_nil h'
      exact absurd (alike a).symm ha
  | cons c m ih =>
    obtain ⟨k, x⟩ := c
    rintro (_ | ⟨⟨k', x'⟩, m'⟩) h h' alike
    · obtain ⟨a, ha⟩ := Mem.read_cons_ne_nil h
      exact absurd (alike a) ha
    · obtain rfl : k = k' :=
        Nat.le_antisymm (Mem.head_le_head h h' alike) (Mem.head_le_head h' h fun a => (alike a).symm)
      obtain ⟨hk, _, _, hm⟩ := (Mem.wf_cons k x m).1 h
      obtain ⟨_, _, _, hm'⟩ := (Mem.wf_cons k x' m').1 h'
      obtain rfl : x = x' := by rw [← Mem.read_head x m hk, alike, Mem.read_head x' m' hk]
      have rests_alike : ∀ a, Mem.read m a = Mem.read m' a := fun a => by
        by_cases ha : a.toNat = k
        · rw [Mem.read_rest_at_head h ha, Mem.read_rest_at_head h' ha]
        · rw [← Mem.read_tail x m ha, alike, Mem.read_tail x m' ha]
      rw [ih m' hm hm' rests_alike]

end Sys2Proof.Machine
end

section
/-! The image loader and boot (20_memory.md R82, R83; 70_reset_and_hazards.md R281). -/

namespace Sys2Proof.Machine

/-- The value of a big-endian word. -/
theorem bigEndianWord_toNat (b0 b1 : Byte) : (bigEndianWord b0 b1).toNat = b0.toNat * 256 + b1.toNat := by
  have append : (bigEndianWord b0 b1).toNat = b0.toNat <<< 8 ||| b1.toNat := BitVec.toNat_append b0 b1
  rw [append, ← Nat.shiftLeft_add_eq_or_of_lt b1.isLt, Nat.shiftLeft_eq]

theorem bigEndianWord_eq_ofNat (b0 b1 : Byte) : bigEndianWord b0 b1 = BitVec.ofNat 16 (b0.toNat * 256 + b1.toNat) := by
  rw [← bigEndianWord_toNat, BitVec.ofNat_toNat, BitVec.setWidth_eq]

/-- Two bytes for each word. -/
theorem length_bytesOfPairs (ws : List (Byte × Byte)) : (ws.flatMap fun w => [w.1, w.2]).length = 2 * ws.length := by
  induction ws with
  | nil => rfl
  | cons w ws ih => simp only [List.flatMap_cons, List.length_append, List.length_cons, List.length_nil, ih]; omega

/-- The words of an even body are its pairs of bytes, big-endian. -/
theorem wordsOfBytes_pairs (ws : List (Byte × Byte)) :
    wordsOfBytes (ws.flatMap fun w => [w.1, w.2]) = ws.map fun w => bigEndianWord w.1 w.2 := by
  induction ws with
  | nil => rfl
  | cons w ws ih => exact congrArg (bigEndianWord w.1 w.2 :: ·) ih

/-- A load that stays inside the address space changes no cell outside its own. -/
theorem Mem.read_loadWords_outside (o : Word) (ws : List Word) (m : Mem) (hfit : o.toNat + ws.length ≤ 65536) (a : Word)
    (ha : a.toNat < o.toNat ∨ o.toNat + ws.length ≤ a.toNat) : Mem.read (loadWords o ws m) a = Mem.read m a := by
  induction ws generalizing o m with
  | nil => rfl
  | cons w ws ih =>
    have next_cell : (o + 1).toNat = (o.toNat + 1) % 65536 := BitVec.toNat_add o 1
    rw [List.length_cons] at hfit ha
    have not_first : a ≠ o := fun e => by subst e; omega
    calc Mem.read (loadWords (o + 1) ws (Mem.write m o w)) a
        = Mem.read (Mem.write m o w) a := ih (o + 1) _ (by omega) (by omega)
      _ = Mem.read m a := Mem.read_write_other m o a w not_first

/-- A load that stays inside the address space puts its words into consecutive cells. -/
theorem Mem.read_loadWords_inside (o : Word) (ws : List Word) (m : Mem) (hm : Mem.wf m = true)
    (hfit : o.toNat + ws.length ≤ 65536) (k : Nat) (hk : k < ws.length) :
    Mem.read (loadWords o ws m) (BitVec.ofNat 16 (o.toNat + k)) = ws[k] := by
  induction ws generalizing o m k with
  | nil => cases hk
  | cons w ws ih =>
    have next_cell : (o + 1).toNat = (o.toNat + 1) % 65536 := BitVec.toNat_add o 1
    rw [List.length_cons] at hfit hk
    cases k with
    | zero =>
      rw [Nat.add_zero, BitVec.ofNat_toNat, BitVec.setWidth_eq]
      calc Mem.read (loadWords (o + 1) ws (Mem.write m o w)) o
          = Mem.read (Mem.write m o w) o := Mem.read_loadWords_outside _ _ _ (by omega) _ (by omega)
        _ = w := Mem.read_write_same m o w hm
    | succ k =>
      have same_cell : o.toNat + (k + 1) = (o + 1).toNat + k := by omega
      rw [same_cell]
      exact ih (o + 1) _ (Mem.wf_write m o w hm) (by omega) k (by omega)

/-- A body of at least one whole word that stays inside the address space is loaded. -/
theorem loadImage_of_fits (b0 b1 : Byte) {body : List Byte} (m : Mem) (hne : body.length ≠ 0) (heven : body.length % 2 = 0)
    (hfit : b0.toNat * 256 + b1.toNat + body.length / 2 ≤ 65536) : loadImage (b0 :: b1 :: body) m =
      some (bigEndianWord b0 b1, loadWords (bigEndianWord b0 b1) (wordsOfBytes body) m) := by
  rw [loadImage, if_neg (by omega), if_neg (by rw [bigEndianWord_toNat]; omega)]

/-- An image of fewer than four bytes or of an odd byte count is rejected (decision D17). -/
theorem loadImage_of_short_or_odd {bytes : List Byte} (m : Mem) (h : bytes.length < 4 ∨ bytes.length % 2 = 1) :
    loadImage bytes m = none := by
  match bytes with
  | [] => rfl
  | [_] => rfl
  | b0 :: b1 :: body =>
    simp only [List.length_cons] at h
    rw [loadImage, if_pos (by omega)]

/-- An image that runs past the last cell is rejected, whatever its byte count (decision D17). -/
theorem loadImage_of_too_long {b0 b1 : Byte} {body : List Byte} (m : Mem)
    (h : 65536 < b0.toNat * 256 + b1.toNat + body.length / 2) : loadImage (b0 :: b1 :: body) m = none := by
  rw [loadImage]
  split
  · rfl
  · rw [if_pos (by rw [bigEndianWord_toNat]; exact h)]

/-- Boot on an image that loads. -/
theorem bootStep_of_loads {s : State} {bytes : List Byte} {origin : Word} {m : Mem} (hi : s.image = some bytes)
    (hl : loadImage bytes s.mem = some (origin, m)) :
    bootStep s = .next { s with mem := m, pc := origin, run := .running, image := none } := by
  simp only [bootStep, hi, hl]

/-- Boot on an image that is rejected (R83). -/
theorem bootStep_of_malformed {s : State} {bytes : List Byte} (hi : s.image = some bytes)
    (hl : loadImage bytes s.mem = none) : bootStep s = .fault .malformedImage := by
  simp only [bootStep, hi, hl]

/-- Boot without an image (R281). -/
theorem bootStep_of_no_image {s : State} (hi : s.image = none) : bootStep s = .fault .noImage := by
  simp only [bootStep, hi]

/-- Settles O57: the loader's words stand where `loadWords` puts them, and boot changes pc, run and image beside. -/
theorem bootLoadsTheImage : Obligations.BootLoadsTheImage := by
  intro s b0 b1 ws hrun hwf himage hne hfit
  have body_length := length_bytesOfPairs ws
  have words_pos : 0 < ws.length := List.length_pos_iff.2 hne
  have loads := loadImage_of_fits b0 b1 s.mem (body := ws.flatMap fun w => [w.1, w.2]) (by omega) (by omega) (by omega)
  rw [wordsOfBytes_pairs] at loads
  have origin_value := bigEndianWord_toNat b0 b1
  have words_fit : (bigEndianWord b0 b1).toNat + (ws.map fun w => bigEndianWord w.1 w.2).length ≤ 65536 := by
    rw [origin_value, List.length_map]; exact hfit
  refine ⟨_, (step_of_constructed hrun).trans (bootStep_of_loads himage loads), bigEndianWord_eq_ofNat b0 b1, rfl, rfl,
    fun k hk => ?_, fun a ha => ?_, fun _ => rfl, rfl, rfl, rfl, rfl, rfl⟩
  · have loaded := Mem.read_loadWords_inside _ _ s.mem hwf words_fit k (by rwa [List.length_map])
    rwa [origin_value, List.getElem_map, bigEndianWord_eq_ofNat ws[k].1] at loaded
  · exact Mem.read_loadWords_outside _ _ s.mem words_fit a (by rwa [origin_value, List.length_map])

/-- Settles O58: the loader rejects each malformed image, and boot faults on what the loader rejects. -/
theorem bootRejectsMalformedImages : Obligations.BootRejectsMalformedImages := by
  intro s hrun
  rw [step_of_constructed hrun]
  exact ⟨fun bytes hi h => bootStep_of_malformed hi (loadImage_of_short_or_odd s.mem h),
    fun b0 b1 body hi h => bootStep_of_malformed hi (loadImage_of_too_long s.mem h),
    bootStep_of_no_image⟩

end Sys2Proof.Machine
end

section
/-! The opcode of a word and of an instruction (30_encoding.md R101, R102). -/

namespace Sys2Proof

/-- The statements per instruction, together: the top four bits of an instruction's word are its opcode number. -/
theorem topBits_encode (i : Instr) : (encode i).extractLsb' 12 4 = i.opcodeNumber := by
  cases i with
  | add => exact Laws.OpcodeField.add _ _ _
  | addImm => exact Laws.OpcodeField.addImm _ _ _
  | and => exact Laws.OpcodeField.and _ _ _
  | andImm => exact Laws.OpcodeField.andImm _ _ _
  | not => exact Laws.OpcodeField.not _ _
  | br => exact Laws.OpcodeField.br _ _
  | jmp => exact Laws.OpcodeField.jmp _
  | jsr => exact Laws.OpcodeField.jsr _
  | jsrr => exact Laws.OpcodeField.jsrr _
  | ld => exact Laws.OpcodeField.ld _ _
  | ldi => exact Laws.OpcodeField.ldi _ _
  | ldr => exact Laws.OpcodeField.ldr _ _ _
  | lea => exact Laws.OpcodeField.lea _ _
  | st => exact Laws.OpcodeField.st _ _
  | sti => exact Laws.OpcodeField.sti _ _
  | str => exact Laws.OpcodeField.str _ _ _
  | trap => exact Laws.OpcodeField.trap _
  | res => exact Laws.OpcodeField.res _
  | rti | ret | getc | out | puts | inp | putsp | halt | nop => decide

/-- The decoder meets an instruction's word under the instruction's own opcode. -/
theorem opcodeOf_encode (i : Instr) : opcodeOf (encode i) = opcodeOfNat i.opcodeNumber.toNat := by
  rw [opcodeOf, topBits_encode]

/-- The number of an opcode (R102). -/
def Opcode.number : Opcode → BitVec 4
  | .br => 0x0
  | .add => 0x1
  | .ld => 0x2
  | .st => 0x3
  | .jsr => 0x4
  | .and => 0x5
  | .ldr => 0x6
  | .str => 0x7
  | .rti => 0x8
  | .not => 0x9
  | .ldi => 0xA
  | .sti => 0xB
  | .jmp => 0xC
  | .res => 0xD
  | .lea => 0xE
  | .trap => 0xF

/-- The sixteen numbers name sixteen opcodes. -/
theorem number_opcodeOfNat : ∀ b : BitVec 4, (opcodeOfNat b.toNat).number = b := by decide

/-- The top four bits of a word are the number of its opcode (R101). -/
theorem topBits_eq_number (w : Word) : w.extractLsb' 12 4 = (opcodeOf w).number := by
  rw [opcodeOf, number_opcodeOfNat]

end Sys2Proof
end

section
/-! The name an instruction is decoded under: a base row's constructor with an alias row's operand answers to the alias
(30_encoding.md R121; log 11). -/

namespace Sys2Proof

/-- The decoder's name for an instruction: only BR, JMP and TRAP have alias rows. -/
def Instr.named : Instr → Instr
  | .br mask off9 => decodeBr mask off9
  | .jmp base => decodeJmp base
  | .trap v => decodeTrap v
  | i => i

/-- The supported vectors are the six that have service names (R113). -/
theorem supportedVector_iff (v : BitVec 8) : supportedVector v = true ↔
    v = 0x20 ∨ v = 0x21 ∨ v = 0x22 ∨ v = 0x23 ∨ v = 0x24 ∨ v = 0x25 := by
  simp only [supportedVector, Bool.and_eq_true, decide_eq_true_eq]
  bv_omega

/-- The ill-formed instructions are the eight base rows that have another name. -/
theorem Instr.eq_of_not_wellFormed {i : Instr} (h : ¬ i.wellFormed = true) :
    i = .br 0 0 ∨ i = .jmp 7 ∨ i = .trap 0x20 ∨ i = .trap 0x21 ∨ i = .trap 0x22 ∨ i = .trap 0x23 ∨ i = .trap 0x24 ∨
      i = .trap 0x25 := by
  cases i with
  | br => simpa [wellFormed] using h
  | jmp => simpa [wellFormed] using h
  | trap => simpa [wellFormed, supportedVector_iff] using h
  | _ => exact absurd rfl h

/-- A well-formed instruction has no other name. -/
theorem Instr.named_of_wellFormed {i : Instr} (h : i.wellFormed = true) : i.named = i := by
  cases i with
  | br =>
    refine if_neg ?_
    rintro ⟨rfl, rfl⟩
    exact absurd h (by decide)
  | jmp =>
    refine if_neg ?_
    rintro rfl
    exact absurd h (by decide)
  | trap v =>
    have unsupported : ¬ supportedVector v = true := by simpa [wellFormed] using h
    simp only [supportedVector_iff, not_or] at unsupported
    simp only [named, decodeTrap, unsupported, if_false]
  | _ => rfl

/-- The decoder's names are well-formed. -/
theorem Instr.named_wellFormed (i : Instr) : i.named.wellFormed = true := by
  by_cases h : i.wellFormed = true
  · rwa [named_of_wellFormed h]
  · rcases eq_of_not_wellFormed h with rfl | rfl | rfl | rfl | rfl | rfl | rfl | rfl <;> rfl

/-- An instruction has one word under all its names. -/
theorem encode_named (i : Instr) : encode i.named = encode i := by
  by_cases h : i.wellFormed = true
  · rw [Instr.named_of_wellFormed h]
  · rcases Instr.eq_of_not_wellFormed h with rfl | rfl | rfl | rfl | rfl | rfl | rfl | rfl <;> rfl

/-- An instruction has one opcode number under all its names. -/
theorem opcodeNumber_named (i : Instr) : i.named.opcodeNumber = i.opcodeNumber := by
  rw [← topBits_encode, encode_named, topBits_encode]

end Sys2Proof
end

section
/-! The round trip from an instruction to its word and back (30_encoding.md R104, R119). -/

namespace Sys2Proof

/-- The decoder reads every field of an instruction's word back; what it may change is the name. -/
theorem decode_encode (i : Instr) : decode (encode i) = i.named := by
  cases i with
  | rti | ret | getc | out | puts | inp | putsp | halt | nop => decide
  | add | addImm | and | andImm | not | br | jmp | jsr | jsrr | ld | ldi | ldr | lea | st | sti | str | trap | res =>
    simp only [decode, opcodeOf_encode, Instr.opcodeNumber, opcodeOfNat, BitVec.reduceToNat,
      BitVec.getLsbD_eq_extractLsb']
    simp (disch := decide) only [encode, regField, BitVec.extractLsb'_append_eq_of_le,
      BitVec.extractLsb'_append_eq_of_add_le, Nat.reduceSub, BitVec.extractLsb'_eq_self, regBits_toNat]
    rfl

/-- Settles O1: a well-formed instruction is its own name. -/
theorem decodeOfEncode : Obligations.DecodeOfEncode := fun i hi =>
  (decode_encode i).trans (Instr.named_of_wellFormed hi)

end Sys2Proof
end

section
/-! The formats of R104: the fields of a word `w` under its opcode, joined again with the bits marked `u` at LC-3's
values, are `w` with those bits masked. -/

namespace Sys2Proof

/-- A mode bit is a field of one bit. -/
theorem extractLsb'_one (w : Word) (lo : Nat) : w.extractLsb' lo 1 = BitVec.ofBool (w.getLsbD lo) := by
  rw [BitVec.getLsbD_eq_extractLsb']
  rcases BitVec.eq_zero_or_eq_one (w.extractLsb' lo 1) with h | h <;> rw [h] <;> rfl

section
variable {w : Word} {op : BitVec 4} (top : w.extractLsb' 12 4 = op)
include top

/-- RES: twelve bits, all kept. -/
theorem join_low12 : op ++ w.extractLsb' 0 12 = w := by
  simp only [← top, BitVec.extractLsb'_append_extractLsb'_eq_extractLsb', BitVec.extractLsb'_eq_self]

/-- BR: a mask and a 9-bit offset. -/
theorem join_mask_off9 : op ++ w.extractLsb' 9 3 ++ w.extractLsb' 0 9 = w := by
  simp only [← top, BitVec.extractLsb'_append_extractLsb'_eq_extractLsb', BitVec.extractLsb'_eq_self]

/-- LD, LDI, LEA, ST and STI: a register and a 9-bit offset. -/
theorem join_reg_off9 : op ++ regBits (regField w 9) ++ w.extractLsb' 0 9 = w := by
  rw [regBits_regField, join_mask_off9 top]

/-- Two fields of three bits and one of six. -/
theorem join_fields6 : op ++ w.extractLsb' 9 3 ++ w.extractLsb' 6 3 ++ w.extractLsb' 0 6 = w := by
  simp only [← top, BitVec.extractLsb'_append_extractLsb'_eq_extractLsb', BitVec.extractLsb'_eq_self]

/-- LDR and STR: two registers and a 6-bit offset. -/
theorem join_regs_off6 : op ++ regBits (regField w 9) ++ regBits (regField w 6) ++ w.extractLsb' 0 6 = w := by
  rw [regBits_regField, regBits_regField, join_fields6 top]

/-- NOT: two registers, and six bits that are ones. -/
theorem join_not : op ++ regBits (regField w 9) ++ regBits (regField w 6) ++ 0b111111#6 = w ||| 0x003F :=
  calc _ = (op ++ w.extractLsb' 9 3 ++ w.extractLsb' 6 3 ++ w.extractLsb' 0 6) |||
          (0#4 ++ 0#3 ++ 0#3 ++ BitVec.allOnes 6) := by
        simp only [regBits_regField, BitVec.or_append, BitVec.or_zero, BitVec.or_allOnes]; rfl
    _ = w ||| 0x003F := by rw [join_fields6 top]; rfl

/-- JMP: three zeros, a register, six zeros. -/
theorem join_jmp : op ++ 0#3 ++ regBits (regField w 6) ++ 0#6 = w &&& 0xF1C0 :=
  calc _ = (op ++ w.extractLsb' 9 3 ++ w.extractLsb' 6 3 ++ w.extractLsb' 0 6) &&&
          (BitVec.allOnes 4 ++ 0#3 ++ BitVec.allOnes 3 ++ 0#6) := by
        simp only [regBits_regField, BitVec.and_append, BitVec.and_allOnes, BitVec.and_zero]
    _ = w &&& 0xF1C0 := by rw [join_fields6 top]; rfl

/-- TRAP: four zeros and a vector. -/
theorem join_trap : op ++ 0#4 ++ w.extractLsb' 0 8 = w &&& 0xF0FF :=
  have fields : op ++ w.extractLsb' 8 4 ++ w.extractLsb' 0 8 = w := by
    simp only [← top, BitVec.extractLsb'_append_extractLsb'_eq_extractLsb', BitVec.extractLsb'_eq_self]
  calc _ = (op ++ w.extractLsb' 8 4 ++ w.extractLsb' 0 8) &&& (BitVec.allOnes 4 ++ 0#4 ++ BitVec.allOnes 8) := by
        simp only [BitVec.and_append, BitVec.and_allOnes, BitVec.and_zero]
    _ = w &&& 0xF0FF := by rw [fields]; rfl

/-- RTI: twelve zeros. -/
theorem join_rti : op ++ 0#12 = w &&& 0xF000 :=
  calc _ = (op ++ w.extractLsb' 0 12) &&& (BitVec.allOnes 4 ++ 0#12) := by
        simp only [BitVec.and_append, BitVec.and_allOnes, BitVec.and_zero]
    _ = w &&& 0xF000 := by rw [join_low12 top]; rfl

/-- JSR: the mode bit 1 and an 11-bit offset. -/
theorem join_jsr (mode : w.getLsbD 11 = true) : op ++ 1#1 ++ w.extractLsb' 0 11 = w := by
  have one : 1#1 = w.extractLsb' 11 1 := by rw [extractLsb'_one, mode]; rfl
  simp only [one, ← top, BitVec.extractLsb'_append_extractLsb'_eq_extractLsb', BitVec.extractLsb'_eq_self]

/-- JSRR: the mode bit 0, two zeros, a register, six zeros. -/
theorem join_jsrr (mode : w.getLsbD 11 = false) : op ++ 0#1 ++ 0#2 ++ regBits (regField w 6) ++ 0#6 = w &&& 0xF9C0 :=
  have zero : w.extractLsb' 11 1 = 0#1 := by rw [extractLsb'_one, mode]; rfl
  have fields : op ++ w.extractLsb' 11 1 ++ w.extractLsb' 9 2 ++ w.extractLsb' 6 3 ++ w.extractLsb' 0 6 = w := by
    simp only [← top, BitVec.extractLsb'_append_extractLsb'_eq_extractLsb', BitVec.extractLsb'_eq_self]
  calc _ = (op ++ w.extractLsb' 11 1 ++ w.extractLsb' 9 2 ++ w.extractLsb' 6 3 ++ w.extractLsb' 0 6) &&&
          (BitVec.allOnes 4 ++ BitVec.allOnes 1 ++ 0#2 ++ BitVec.allOnes 3 ++ 0#6) := by
        simp only [regBits_regField, zero, BitVec.and_append, BitVec.and_allOnes, BitVec.and_zero]
    _ = w &&& 0xF9C0 := by rw [fields]; rfl

/-- ADD and AND with an immediate: two registers, the mode bit 1 and a 5-bit immediate. -/
theorem join_opi (mode : w.getLsbD 5 = true) :
    op ++ regBits (regField w 9) ++ regBits (regField w 6) ++ 1#1 ++ w.extractLsb' 0 5 = w := by
  have one : 1#1 = w.extractLsb' 5 1 := by rw [extractLsb'_one, mode]; rfl
  simp only [one, regBits_regField, ← top, BitVec.extractLsb'_append_extractLsb'_eq_extractLsb',
    BitVec.extractLsb'_eq_self]

/-- ADD and AND of registers: two registers, the mode bit 0, two zeros and a register. -/
theorem join_opr (mode : w.getLsbD 5 = false) :
    op ++ regBits (regField w 9) ++ regBits (regField w 6) ++ 0#1 ++ 0#2 ++ regBits (regField w 0) = w &&& 0xFFE7 :=
  have zero : w.extractLsb' 5 1 = 0#1 := by rw [extractLsb'_one, mode]; rfl
  have fields : op ++ w.extractLsb' 9 3 ++ w.extractLsb' 6 3 ++ w.extractLsb' 5 1 ++ w.extractLsb' 3 2 ++
      w.extractLsb' 0 3 = w := by
    simp only [← top, BitVec.extractLsb'_append_extractLsb'_eq_extractLsb', BitVec.extractLsb'_eq_self]
  calc _ = (op ++ w.extractLsb' 9 3 ++ w.extractLsb' 6 3 ++ w.extractLsb' 5 1 ++ w.extractLsb' 3 2 ++
          w.extractLsb' 0 3) &&&
          (BitVec.allOnes 4 ++ BitVec.allOnes 3 ++ BitVec.allOnes 3 ++ BitVec.allOnes 1 ++ 0#2 ++ BitVec.allOnes 3) := by
        simp only [regBits_regField, zero, BitVec.and_append, BitVec.and_allOnes, BitVec.and_zero]
    _ = w &&& 0xFFE7 := by rw [fields]; rfl

end

end Sys2Proof
end

section
/-! What a word decodes to, by its opcode (R101, R104, R115). -/

namespace Sys2Proof

/-- A word with the bits marked `u` at the values LC-3 requires; RES has none (R104, R115, log 12, log 15). -/
def canonicalWord (w : Word) : Word :=
  match opcodeOf w with
  | .add | .and => if w.getLsbD 5 then w else w &&& 0xFFE7
  | .not => w ||| 0x003F
  | .jmp => w &&& 0xF1C0
  | .jsr => if w.getLsbD 11 then w else w &&& 0xF9C0
  | .trap => w &&& 0xF0FF
  | .rti => w &&& 0xF000
  | .br | .ld | .st | .ldr | .str | .ldi | .sti | .res | .lea => w

/-- A word decodes to the name of an instruction with the word's opcode number, whose own word is the canonical one. -/
theorem decode_eq_named (w : Word) :
    ∃ i : Instr, decode w = i.named ∧ i.opcodeNumber = w.extractLsb' 12 4 ∧ encode i = canonicalWord w := by
  have top := topBits_eq_number w
  unfold decode canonicalWord
  generalize opcodeOf w = op at top ⊢
  cases op with
  | br => exact ⟨.br _ _, rfl, top.symm, join_mask_off9 top⟩
  | ld => exact ⟨.ld _ _, rfl, top.symm, join_reg_off9 top⟩
  | ldi => exact ⟨.ldi _ _, rfl, top.symm, join_reg_off9 top⟩
  | lea => exact ⟨.lea _ _, rfl, top.symm, join_reg_off9 top⟩
  | st => exact ⟨.st _ _, rfl, top.symm, join_reg_off9 top⟩
  | sti => exact ⟨.sti _ _, rfl, top.symm, join_reg_off9 top⟩
  | ldr => exact ⟨.ldr _ _ _, rfl, top.symm, join_regs_off6 top⟩
  | str => exact ⟨.str _ _ _, rfl, top.symm, join_regs_off6 top⟩
  | not => exact ⟨.not _ _, rfl, top.symm, join_not top⟩
  | jmp => exact ⟨.jmp _, rfl, top.symm, join_jmp top⟩
  | trap => exact ⟨.trap _, rfl, top.symm, join_trap top⟩
  | rti => exact ⟨.rti, rfl, top.symm, join_rti top⟩
  | res => exact ⟨.res _, rfl, top.symm, join_low12 top⟩
  | add =>
    cases mode : w.getLsbD 5
    · exact ⟨.add _ _ _, rfl, top.symm, join_opr top mode⟩
    · exact ⟨.addImm _ _ _, rfl, top.symm, join_opi top mode⟩
  | and =>
    cases mode : w.getLsbD 5
    · exact ⟨.and _ _ _, rfl, top.symm, join_opr top mode⟩
    · exact ⟨.andImm _ _ _, rfl, top.symm, join_opi top mode⟩
  | jsr =>
    cases mode : w.getLsbD 11
    · exact ⟨.jsrr _, rfl, top.symm, join_jsrr top mode⟩
    · exact ⟨.jsr _, rfl, top.symm, join_jsr top mode⟩

/-- Settles O2: the decoder answers names. -/
theorem decodedIsWellFormed : Obligations.DecodedIsWellFormed := by
  intro w
  obtain ⟨i, decoded, -, -⟩ := decode_eq_named w
  rw [decoded]
  exact i.named_wellFormed

/-- Settles O3: naming keeps the opcode number. -/
theorem topFourBitsAreTheOpcode : Obligations.TopFourBitsAreTheOpcode := by
  intro w
  obtain ⟨i, decoded, number, -⟩ := decode_eq_named w
  rw [decoded, opcodeNumber_named, number]

/-- Decoding and encoding again puts the bits marked `u` at LC-3's values. -/
theorem encode_decode (w : Word) : encode (decode w) = canonicalWord w := by
  obtain ⟨i, decoded, -, word⟩ := decode_eq_named w
  rw [decoded, encode_named, word]

/-- Settles O4: the first clause is O1 on what O2 gives; the others are `canonicalWord`'s rows. -/
theorem unusedBitsAreIgnored : Obligations.UnusedBitsAreIgnored := by
  intro w
  refine ⟨decodeOfEncode _ (decodedIsWellFormed w), ?_⟩
  rw [encode_decode, canonicalWord, opcodeOf]
  simp only [List.mem_cons, List.not_mem_nil, or_false]
  refine ⟨fun h => ?_, fun h mode => ?_, fun h mode => ?_, fun h => ?_, fun h => ?_, fun h mode => ?_, fun h mode => ?_,
    fun h => ?_, fun h => ?_⟩
  · rcases h with h | h | h | h | h | h | h | h | h <;> rw [h] <;> rfl
  · rcases h with h | h <;> rw [h, mode] <;> rfl
  · rcases h with h | h <;> rw [h, mode] <;> rfl
  · rw [h]; rfl
  · rw [h]; rfl
  · rw [h, mode]; rfl
  · rw [h, mode]; rfl
  · rw [h]; rfl
  · rw [h]; rfl

/-- Settles O5: each of the nineteen words is decoded by computation. -/
theorem sampleWordsDecode : Obligations.SampleWordsDecode := by
  unfold Obligations.SampleWordsDecode
  decide

end Sys2Proof
end

section
/-! The alias rows' effects (30_encoding.md R121). -/

namespace Sys2Proof.Machine

/-- Settles O29: the branch with mask and offset zero, the jump to R7 and each service's arm of the dispatcher are the
alias's own definition. -/
theorem aliasesAreTheirBaseRows : Obligations.AliasesAreTheirBaseRows := by
  intro s
  exact ⟨rfl, rfl, rfl, rfl, rfl, rfl, rfl, rfl⟩

end Sys2Proof.Machine
end

section
/-! The fetch-execute cycle (40_cycle.md R140, R141, R143), and the word a host places at pc (log 8). -/

namespace Sys2Proof.Machine

/-- With no device at pc a fetch answers pc's cell and changes pc alone. -/
theorem State.fetch_plain {s : State} (hdev : s.deviceAt s.pc = none) : s.fetch = (Mem.read s.mem s.pc, s.setPc (s.pc + 1)) := by
  rw [State.fetch, s.memRead_fst, s.memRead_snd, s.afterRead_plain s.pc hdev]

/-- Settles O46: the first two clauses are `fetch` itself; the read keeps COND and `setPc` sets pc alone. -/
theorem fetchRule : Obligations.FetchRule := fun s =>
  ⟨rfl, rfl, s.afterRead_cond s.pc, rfl, State.fetch_plain⟩

/-- Settles O47: a running core's step is `exec` after the fetch, whose two parts are those of MemRead. -/
theorem stepRunsTheDecodedInstruction : Obligations.StepRunsTheDecodedInstruction := by
  intro s i hrun
  refine ⟨fun hdec => ?_, fun hdev hdec => ?_⟩
  · rw [← hdec]
    exact step_of_running hrun
  · rw [← hdec]
    exact step_of_running_plain hrun hdev

/-- A registry without its entries at `a` has no device there. -/
theorem deviceIn_filter_ne (ds : List (Word × Device)) (a : Word) : deviceIn (ds.filter fun d => d.1 != a) a = none := by
  induction ds with
  | nil => rfl
  | cons d ds ih =>
    by_cases h : d.1 = a
    · rw [List.filter_cons_of_neg (by simp [h])]
      exact ih
    · rw [List.filter_cons_of_pos (by simp [h]), deviceIn, if_neg (Ne.symm h)]
      exact ih

@[simp] theorem State.withFetchWord_pc (s : State) (nbits w : Nat) : (s.withFetchWord nbits w).pc = s.pc := rfl
@[simp] theorem State.withFetchWord_run (s : State) (nbits w : Nat) : (s.withFetchWord nbits w).run = .running := rfl

/-- Placing a word leaves no device at pc. -/
theorem State.withFetchWord_deviceAt_pc (s : State) (nbits w : Nat) : (s.withFetchWord nbits w).deviceAt s.pc = none :=
  deviceIn_filter_ne s.cfg.devices s.pc

/-- The placed 16-bit word is what pc's cell then holds. -/
theorem State.withFetchWord_read_pc {s : State} (hwf : Mem.wf s.mem = true) (w : Word) :
    Mem.read (s.withFetchWord 16 w.toNat).mem s.pc = w := by
  have whole_word : BitVec.ofNat 16 (w.toNat % 2 ^ 16) = w := by
    rw [Nat.mod_eq_of_lt w.isLt, BitVec.ofNat_toNat, BitVec.setWidth_eq]
  calc Mem.read (s.withFetchWord 16 w.toNat).mem s.pc
      = BitVec.ofNat 16 (w.toNat % 2 ^ 16) := Mem.read_write_same s.mem s.pc _ hwf
    _ = w := whole_word

/-- Settles O48: the host leaves a running core with no device at pc and the word in pc's cell. -/
theorem placedWordRunsNext : Obligations.PlacedWordRunsNext := by
  intro s w hwf
  have next_step := step_of_running_plain (s.withFetchWord_run 16 w.toNat) (s.withFetchWord_deviceAt_pc 16 w.toNat)
  rwa [State.withFetchWord_pc, State.withFetchWord_read_pc hwf] at next_step

/-- Settles O49: no arm of `step` but the halted one applies, whatever error the core halted with. -/
theorem haltedTakesNoStep : Obligations.HaltedTakesNoStep := by
  intro s err h
  simp only [step, h]

end Sys2Proof.Machine
end

section
/-! ADD, AND and NOT: one flag-updating write of a value taken from the old state (41_operate.md R150 to R152). -/

namespace Sys2Proof.Machine

/-- The flag-updating write leaves the result in DR with its flags, and the rest as it was; O7 gives the registers. -/
theorem State.setReg_writesResult (s : State) (dr : Reg) (v : Word) : s.WritesResult dr v (s.setReg dr v) := by
  obtain ⟨-, read_back, -, other_registers⟩ := flagRule s dr v
  have same_mem : s.SameMem (s.setReg dr v) := fun b => by rw [State.setReg_mem]
  have same_rest : s.SameRest (s.setReg dr v) := ⟨rfl, rfl, rfl, rfl, rfl, rfl⟩
  exact ⟨read_back, s.setReg_cond dr v, other_registers, s.setReg_pc dr v, same_mem, same_rest⟩

/-- Settles O9: both forms are the flag-updating write of the sum; the sources are read in `s`, so DR may be one of them. -/
theorem addResult : Obligations.AddResult := fun s dr _ _ _ =>
  ⟨⟨_, rfl, s.setReg_writesResult dr _⟩, ⟨_, rfl, s.setReg_writesResult dr _⟩⟩

/-- Settles O10: both forms are the flag-updating write of the conjunction. -/
theorem andResult : Obligations.AndResult := fun s dr _ _ _ =>
  ⟨⟨_, rfl, s.setReg_writesResult dr _⟩, ⟨_, rfl, s.setReg_writesResult dr _⟩⟩

/-- Settles O11: NOT writes the bitwise complement, which is what subtracting from 0xFFFF gives. -/
theorem notResult : Obligations.NotResult := by
  intro s dr sr
  have complement : 0xFFFF - s.reg sr = ~~~ s.reg sr := BitVec.allOnes_sub_eq_not (s.reg sr)
  rw [complement]
  exact ⟨_, rfl, s.setReg_writesResult dr _⟩

end Sys2Proof.Machine
end

section
/-! BR, JMP, RET, JSR and JSRR: where they go on, and what they leave unchanged (42_control.md R170 to R174). -/

namespace Sys2Proof.Machine

/-- A jump changes pc and nothing else. -/
theorem State.setPc_jumps (s : State) (target : Word) : s.Jumps target (s.setPc target) :=
  ⟨rfl, fun _ => rfl, rfl, fun _ => rfl, rfl, rfl, rfl, rfl, rfl, rfl⟩

/-- A link write and a jump change R7 and pc and nothing else; COND stays (10_state.md R34). -/
theorem State.link_setPc_links (s : State) (target : Word) : s.Links target (s.link.setPc target) := by
  have linked : (s.link.setPc target).reg 7 = s.pc := by rw [State.setPc_reg, State.link_reg, if_pos rfl]
  have other_registers : s.SameRegsBut 7 (s.link.setPc target) := fun q hq => by
    rw [State.setPc_reg, State.link_reg, if_neg hq]
  exact ⟨rfl, linked, other_registers, rfl, fun _ => rfl, rfl, rfl, rfl, rfl, rfl, rfl⟩

/-- The mask's bits are n, z, p from the top, and NONE meets none of them (30_encoding.md R107). -/
theorem branchTaken_iff (mask : BitVec 3) (c : Cond) :
    branchTaken mask c = true ↔ (c = .n ∧ mask.getLsbD 2 = true) ∨ (c = .z ∧ mask.getLsbD 1 = true) ∨
      (c = .p ∧ mask.getLsbD 0 = true) := by
  cases c with
  | n | z | p | none => revert mask; decide

/-- A branch is a jump to its target or to `pc'` (R170). -/
theorem State.branch_eq_setPc (s : State) (mask : BitVec 3) (off9 : BitVec 9) :
    s.branch mask off9 = s.setPc (if branchTaken mask s.cond = true then s.pc + sext9 off9 else s.pc) := by
  unfold State.branch
  split
  · rfl
  · rfl

/-- The mask 000 never branches (30_encoding.md R118). -/
theorem State.branch_mask_zero (s : State) (off9 : BitVec 9) : s.branch 0 off9 = s :=
  if_neg (by simp [branchTaken_iff])

/-- JSRR is a call whose target the order of its two reads decides, for R7 alone (R174, decision D10). -/
theorem execJsrr_eq (base : Reg) (s : State) : execJsrr base s =
    .next (s.link.setPc (if base = 7 ∧ s.cfg.jsrrBaseAfterLink = true then s.pc else s.reg base)) := by
  unfold execJsrr
  by_cases order : s.cfg.jsrrBaseAfterLink = true
  · rw [if_pos order, State.jumpTo, State.link_reg]
    simp only [order, and_true]
  · rw [if_neg order, if_neg fun h => order h.2]

/-- Settles O12: BR is a jump, to its target under R107's mask bits; NOP's mask is 000. -/
theorem branchResult : Obligations.BranchResult := by
  intro s mask off9
  have nop : exec .nop s = .next s := congrArg Host.Outcome.next (s.branch_mask_zero 0)
  refine ⟨⟨_, congrArg Host.Outcome.next (s.branch_eq_setPc mask off9), ?_⟩, nop⟩
  simp only [← branchTaken_iff]
  exact s.setPc_jumps _

/-- Settles O13: both are jumps. -/
theorem jumpResult : Obligations.JumpResult := fun s _ =>
  ⟨⟨_, rfl, s.setPc_jumps _⟩, ⟨_, rfl, s.setPc_jumps _⟩⟩

/-- Settles O14: JSR is a call whose target is taken from `pc'`. -/
theorem jsrResult : Obligations.JsrResult := fun s _ => ⟨_, rfl, s.link_setPc_links _⟩

/-- Settles O15: JSRR is a call under either order. -/
theorem jsrrResult : Obligations.JsrrResult := fun s base => ⟨_, execJsrr_eq base s, s.link_setPc_links _⟩

end Sys2Proof.Machine
end

section
/-! The pc after every instruction (42_control.md R176): beyond the control transfers above none writes it. -/

namespace Sys2Proof.Machine

/-- No service writes pc, whether it completes, waits or ends the run (44_trap_system.md R210). -/
theorem trapService_pc {v : BitVec 8} {s t : State} (h : trapService v s = .next t) : t.pc = s.pc := by
  rcases trapService_cases v s with ⟨_, e⟩ | ⟨_, e⟩ | ⟨_, e⟩ | ⟨_, e⟩ | ⟨_, e⟩ | ⟨_, e⟩ | ⟨_, e⟩ <;> rw [e] at h
  · cases h; exact (s.trapInput_frame .getc).1
  · cases h; rfl
  · exact (scanPuts_rel (scanOutcome_next.1 h)).pc
  · cases h; exact ((s.outAll s.cfg.inPrompt).trapInput_frame .inp).1
  · exact (scanPutsp_rel (scanOutcome_next.1 h)).pc
  · cases h; rfl
  · cases h
    rcases s.serviceUnsupported_cases v with ⟨_, e⟩ | ⟨_, e⟩
    · rw [e, State.raiseFatal_pc]
    · rw [e]

/-- An instruction with a result goes on at `pc'`. -/
theorem ExecEffect.pc_of_result {dr : Reg} {s t : State} (h : ExecEffect s (.result dr) t) : t.pc = s.pc := by
  cases h with
  | write reads => exact reads.pc

/-- A TRAP goes on at `pc'`: neither its link write nor its service writes pc. -/
theorem ExecEffect.pc_of_service {v : BitVec 8} {s t : State} (h : ExecEffect s (.service v) t) : t.pc = s.pc := by
  cases h with
  | trap run => exact (trapService_pc run).trans s.link_pc

/-- RES stays at `pc'`, halted or not (44_trap_system.md R222). -/
theorem execRes_pc {low12 : BitVec 12} {s t : State} (h : execRes low12 s = .next t) : t.pc = s.pc := by
  unfold execRes at h
  split at h
  · cases h; rfl
  · cases h; rfl

/-- Settles O56: the control transfers as above, and no other instruction writes pc. -/
theorem nextPcOfEveryInstruction : Obligations.NextPcOfEveryInstruction := by
  intro i s t h
  cases i with
  | br mask off9 => cases h; exact congrArg State.pc (s.branch_eq_setPc mask off9)
  | nop => cases h; exact congrArg State.pc (s.branch_mask_zero 0)
  | jmp | ret | jsr => cases h; rfl
  | jsrr base => cases (execJsrr_eq base s).symm.trans h; rfl
  | add | addImm | and | andImm | not | ld | ldi | ldr | lea => exact (exec_effect h).pc_of_result
  | st | str => cases h; rfl
  | sti => cases h; exact s.afterRead_pc _
  | rti => cases h; rfl
  | res => exact execRes_pc h
  | trap | getc | out | puts | inp | putsp | halt => exact (exec_effect h).pc_of_service

end Sys2Proof.Machine
end

section
/-! LD, LDI, LDR, LEA, ST, STI and STR (43_loadstore.md R190 to R197): each is one of the three operations `load`, `setReg`
and `memWrite`, after a pointer read in LDI and STI. -/

namespace Sys2Proof.Machine

/-- Every load is a flag-updating write in the state its read leaves; that read keeps all but memory and the inputs, and
with no device at the address those too (20_memory.md R63). -/
theorem State.load_loads (s : State) (dr : Reg) (a : Word) : s.Loads dr a (s.load dr a) := by
  have written : (s.memRead a).2.WritesResult dr (s.memRead a).1 (s.load dr a) := State.setReg_writesResult _ dr _
  obtain ⟨read_back, flags, other_registers, hpc, same_mem, hrun, hinq, hend, houtq, himage, hcfg⟩ := written
  have untouched : s.deviceAt a = none →
      (s.load dr a).reg dr = Mem.read s.mem a ∧ s.SameMem (s.load dr a) ∧ (s.load dr a).inq = s.inq := fun hdev => by
    rw [(memReadRule s a).2 hdev] at read_back same_mem hinq
    exact ⟨read_back, same_mem, hinq⟩
  exact ⟨read_back, flags, fun q hq => (other_registers q hq).trans (s.afterRead_reg a q), hpc.trans (s.afterRead_pc a),
    same_mem, hinq, hrun.trans (s.afterRead_run a), hend.trans (s.afterRead_inEnd a), houtq.trans (s.afterRead_outq a),
    himage.trans (s.afterRead_image a), hcfg.trans (s.afterRead_cfg a), untouched⟩

/-- Settles O19: LD is the load from `pc' + offset`. -/
theorem ldResult : Obligations.LdResult := fun s dr _ => ⟨_, rfl, s.load_loads dr _⟩

/-- Settles O21: LDR is the load from `BaseR + offset`; the base is read in `s`, so DR may be BaseR. -/
theorem ldrResult : Obligations.LdrResult := fun s dr _ _ => ⟨_, rfl, s.load_loads dr _⟩

/-- Settles O20: LDI is a load in the state the pointer read leaves, and that read keeps all but memory and the inputs. -/
theorem ldiResult : Obligations.LdiResult := by
  intro s dr off9
  have loaded := (s.pcRelIndirect off9).2.load_loads dr (s.pcRelIndirect off9).1
  have ⟨_, _, other_registers, hpc, _, _, hrun, hend, houtq, himage, hcfg, _⟩ := loaded
  exact ⟨_, rfl, loaded, fun q hq => (other_registers q hq).trans (s.afterRead_reg _ q), hpc.trans (s.afterRead_pc _),
    hrun.trans (s.afterRead_run _), houtq.trans (s.afterRead_outq _), hend.trans (s.afterRead_inEnd _),
    himage.trans (s.afterRead_image _), hcfg.trans (s.afterRead_cfg _)⟩

/-- Settles O22: LEA is the flag-updating write of its address; it reads no memory. -/
theorem leaResult : Obligations.LeaResult := fun s dr _ => ⟨_, rfl, s.setReg_writesResult dr _⟩

/-- Settles O23: ST is MemWrite at `pc' + offset`. -/
theorem stResult : Obligations.StResult := fun s _ _ => ⟨_, rfl, memWriteRule s _ _⟩

/-- Settles O25: STR is MemWrite at `BaseR + offset`. -/
theorem strResult : Obligations.StrResult := fun s _ _ _ => ⟨_, rfl, memWriteRule s _ _⟩

/-- Settles O24: STI is MemWrite in the state the pointer read leaves, and that read keeps all but memory and the inputs. -/
theorem stiResult : Obligations.StiResult := by
  intro s sr off9
  have stored := memWriteRule (s.pcRelIndirect off9).2 (s.pcRelIndirect off9).1 (s.reg sr)
  have ⟨_, _, same_regs, hcond, hpc, hrun, _, hend, houtq, himage, hcfg⟩ := stored
  exact ⟨_, rfl, stored, fun q => (same_regs q).trans (s.afterRead_reg _ q), hcond.trans (s.afterRead_cond _),
    hpc.trans (s.afterRead_pc _), hrun.trans (s.afterRead_run _), houtq.trans (s.afterRead_outq _),
    hend.trans (s.afterRead_inEnd _), himage.trans (s.afterRead_image _), hcfg.trans (s.afterRead_cfg _)⟩

end Sys2Proof.Machine
end

section
/-! A stored value loaded back (43_loadstore.md R198, 20_memory.md R77). -/

namespace Sys2Proof.Machine

/-- An outcome is one state, so what holds of the state it completes in holds of each state it is known to equal. -/
theorem holds_of_completes {o : Host.Outcome State Fault Refusal} {P : State → Prop} (completes : ∃ t, o = .next t ∧ P t)
    {t : State} (h : o = .next t) : P t := by
  obtain ⟨t', h', holds⟩ := completes
  cases h'.symm.trans h
  exact holds

/-- A store changes no parameter, so the devices stay where they are. -/
theorem State.Stores.deviceAt_eq {s t : State} {a v : Word} (stored : s.Stores a v t) (b : Word) :
    t.deviceAt b = s.deviceAt b := by
  obtain ⟨_, _, _, _, _, _, _, _, _, _, hcfg⟩ := stored
  rw [State.deviceAt, hcfg, State.deviceAt]

/-- R198 for every store and load of one cell with no device there: the load reads the raw cell, which the store filled. -/
theorem State.Stores.loads_back {s t u : State} {a v p : Word} {dr : Reg} (stored : s.Stores a v t)
    (loaded : (t.setPc p).Loads dr a u) (hwf : Mem.wf s.mem = true) (hdev : s.deviceAt a = none) : u.reg dr = v := by
  have still_no_device : (t.setPc p).deviceAt a = none := (stored.deviceAt_eq a).trans hdev
  obtain ⟨_, _, _, _, _, _, _, _, _, _, _, untouched⟩ := loaded
  obtain ⟨filled_cell, _⟩ := stored
  calc u.reg dr = Mem.read t.mem a := (untouched still_no_device).1
    _ = v := filled_cell hwf

/-- Settles O26: in each pair the two addresses are one, the store's, in the state the store (for STI its pointer read) began
in; `loads_back` does the rest. -/
theorem storeThenLoadRoundTrip : Obligations.StoreThenLoadRoundTrip := by
  intro s t u sr dr p hwf
  refine ⟨fun off off' hst hld same_address hdev => ?st_ld, fun b b' off off' hst hld same_address hdev => ?str_ldr,
    fun off off' hst hld pointer_plain hdev same_address => ?sti_ldi⟩
  case st_ld =>
    have stored := holds_of_completes (stResult s sr off) hst
    have loaded := holds_of_completes (ldResult (t.setPc p) dr off') hld
    rw [State.setPc_pc, same_address] at loaded
    exact stored.loads_back loaded hwf hdev
  case str_ldr =>
    have stored := holds_of_completes (strResult s sr b off) hst
    have loaded := holds_of_completes (ldrResult (t.setPc p) dr b' off') hld
    have ⟨_, _, same_regs, _⟩ := stored
    rw [State.setPc_reg, same_regs b', same_address] at loaded
    exact stored.loads_back loaded hwf hdev
  case sti_ldi =>
    obtain ⟨stored, _⟩ := holds_of_completes (stiResult s sr off) hst
    obtain ⟨loaded, _⟩ := holds_of_completes (ldiResult (t.setPc p) dr off') hld
    have no_device_at_pointer : (t.setPc p).deviceAt (p + sext9 off') = none := by
      rw [State.setPc_deviceAt, stored.deviceAt_eq, State.memRead_snd, State.afterRead_deviceAt, pointer_plain]
    rw [State.setPc_pc, (memReadRule (t.setPc p) _).2 no_device_at_pointer, State.setPc_mem, same_address] at loaded
    refine stored.loads_back loaded (s.afterRead_wf _ hwf) ?_
    rw [State.memRead_snd, State.afterRead_deviceAt, hdev]

end Sys2Proof.Machine
end

section
/-! GETC and IN: the blocking read, with a byte and without one (44_trap_system.md R213, R214, R217; 60_exceptions.md R271). -/

namespace Sys2Proof.Machine

/-- The link write alone leaves what every TRAP leaves (44_trap_system.md R210). -/
theorem State.link_traps (s : State) : s.Traps s.link := by
  have linked : s.link.reg 7 = s.pc := by rw [State.link_reg, if_pos rfl]
  have other_registers : ∀ q, q ≠ 0 → q ≠ 7 → s.link.reg q = s.reg q := fun q _ hq => by rw [State.link_reg, if_neg hq]
  exact ⟨rfl, linked, other_registers, fun _ => rfl, rfl, rfl, rfl⟩

/-- Output after the link write leaves the same. -/
theorem State.link_outAll_traps (s : State) (bs : List Byte) : s.Traps (s.link.outAll bs) := s.link_traps

/-- A blocking read on top changes none of it. -/
theorem State.Traps.trapInput {s u : State} (h : s.Traps u) (svc : InputService) : s.Traps (u.trapInput svc) := by
  obtain ⟨hpc, hlink, hregs, hmem, hend, himage, hcfg⟩ := h
  obtain ⟨kpc, kmem, kimage, kcfg, ⟨kend, _⟩, kregs⟩ := u.trapInput_frame svc
  exact ⟨kpc.trans hpc, (kregs 7 (by decide)).trans hlink, fun q h0 h7 => (kregs q h0).trans (hregs q h0 h7),
    fun b => kmem ▸ hmem b, kend.trans hend, kimage.trans himage, kcfg.trans hcfg⟩

/-- A blocking read passes the moments without a byte. -/
theorem nextByte_pauses_byte (k : Nat) (c : Byte) (rest : List HostInput) :
    nextByte (List.replicate k .pause ++ .byte c :: rest) = some (c, rest) := by
  induction k with
  | zero => rfl
  | succ k ih => exact ih

theorem nextByte_pauses (k : Nat) : nextByte (List.replicate k .pause) = none := by
  induction k with
  | zero => rfl
  | succ k ih => exact ih

/-- A byte the stream supplies is the byte a blocking read takes. -/
theorem State.SuppliesByte.takeByte {s : State} {c : Byte} {rest : List HostInput} (h : s.SuppliesByte c rest) :
    s.takeByte = some (c, rest) := by
  rcases h with ⟨k, hq⟩ | ⟨k, m, hq, hc⟩
  · rw [State.takeByte, hq, nextByte_pauses_byte]
  · rw [State.takeByte, hq, hc, nextByte_pauses, nextByte_pauses_byte]

theorem State.SuppliesNone.takeByte {s : State} (h : s.SuppliesNone) : s.takeByte = none := by
  obtain ⟨⟨k, hq⟩, m, hc⟩ := h
  rw [State.takeByte, hq, hc, nextByte_pauses, nextByte_pauses]

theorem byteWord_eq_ofNat (c : Byte) : byteWord c = BitVec.ofNat 16 c.toNat := (BitVec.ofNat_toNat 16 c).symm

/-- A blocking read with a byte (R213): what it does to R0, COND, the streams and the run state. -/
theorem State.SuppliesByte.trapInput {s : State} {c : Byte} {rest : List HostInput} (h : s.SuppliesByte c rest)
    (svc : InputService) :
    (s.trapInput svc).reg 0 = BitVec.ofNat 16 c.toNat ∧
    (s.trapInput svc).cond =
      (if s.cfg.trapInputSetsFlags = true then setcc (BitVec.ofNat 16 c.toNat) else s.cond) ∧
    (s.trapInput svc).inq = rest ∧
    (s.trapInput svc).outq = s.outq ++ (match svc with | .getc => [] | .inp => [c]) ∧
    (s.trapInput svc).run = s.run := by
  have completes : s.trapInput svc = { s with inq := rest }.inputDone c svc := by rw [State.trapInput, h.takeByte]
  obtain ⟨_, _, hrun, hinq, _⟩ := State.inputDone_frame { s with inq := rest } c svc
  rw [completes, ← byteWord_eq_ofNat]
  exact ⟨State.inputDone_reg _ c svc 0, State.inputDone_cond _ c svc, hinq, State.inputDone_outq _ c svc, hrun⟩

/-- A blocking read without a byte sets the run state and nothing else (R213, R254, R271). -/
theorem State.SuppliesNone.trapInput {s : State} (h : s.SuppliesNone) (svc : InputService) :
    s.trapInput svc = { s with run :=
      if s.inEnd = .closed then .halted (some (.inputExhausted svc.vector (s.pc - 1))) else .waiting svc } := by
  rcases s.trapInput_cases svc with ⟨c, rest, took, _⟩ | ⟨_, hend, e⟩ | ⟨_, ⟨cycle, hend⟩, e⟩
  · cases h.takeByte.symm.trans took
  · rw [e, if_pos hend]; rfl
  · rw [e, if_neg (by rw [hend]; exact nofun)]

/-- Settles O30: GETC is the blocking read after the link write, under either name. -/
theorem getcResult : Obligations.GetcResult := by
  intro i s c rest hi hbyte
  have runs : exec i s = .next (s.link.trapInput .getc) := by rcases hi with rfl | rfl <;> rfl
  have supplied : s.link.SuppliesByte c rest := hbyte
  obtain ⟨hreg, hcond, hinq, houtq, hrun⟩ := supplied.trapInput .getc
  exact ⟨_, runs, s.link_traps.trapInput .getc, hreg, hcond, hinq, houtq.trans (List.append_nil _), hrun⟩

/-- Settles O31: IN is the blocking read after the link write and the prompt. -/
theorem inResult : Obligations.InResult := by
  intro i s c rest hi hbyte
  have runs : exec i s = .next ((s.link.outAll s.cfg.inPrompt).trapInput .inp) := by rcases hi with rfl | rfl <;> rfl
  have supplied : (s.link.outAll s.cfg.inPrompt).SuppliesByte c rest := hbyte
  exact ⟨_, runs, (s.link_outAll_traps s.cfg.inPrompt).trapInput .inp, supplied.trapInput .inp⟩

/-- Settles O32: without a byte the read after the link write, and after IN's prompt, sets the run state alone. -/
theorem inputExhaustedOrWaiting : Obligations.InputExhaustedOrWaiting := by
  intro s hnone
  have at_getc : s.link.SuppliesNone := hnone
  have at_in : (s.link.outAll s.cfg.inPrompt).SuppliesNone := hnone
  refine ⟨⟨_, rfl, s.link_traps.trapInput .getc, ?_⟩, ⟨_, rfl, (s.link_outAll_traps s.cfg.inPrompt).trapInput .inp, ?_⟩⟩
  · rw [State.serviceGetc, at_getc.trapInput]
    exact ⟨s.link_reg 0, rfl, rfl, rfl, rfl⟩
  · rw [State.serviceIn, State.link_cfg, at_in.trapInput]
    exact ⟨s.link_reg 0, rfl, rfl, rfl, rfl⟩

end Sys2Proof.Machine
end

section
/-! OUT, HALT, the unsupported vectors, RES and RTI (44_trap_system.md R215, R219 to R222). -/

namespace Sys2Proof.Machine

/-- Output after the link write changes, beyond the output, what the link write changes. -/
theorem State.link_outAll_links (s : State) (bs : List Byte) :
    s.Links s.pc { s.link.outAll bs with outq := s.outq } := s.link_setPc_links s.pc

/-- The low byte of a word is the word mod 256. -/
theorem lowByte_eq_ofNat (v : Word) : lowByte v = BitVec.ofNat 8 v.toNat := rfl

/-- Settles O34: OUT is one `out` after the link write, which does not touch R0. -/
theorem outResult : Obligations.OutResult := by
  intro i s hi
  have runs : exec i s = .next s.link.serviceOut := by rcases hi with rfl | rfl <;> rfl
  have r0_kept : s.link.reg 0 = s.reg 0 := s.link_reg 0
  refine ⟨_, runs, s.link_outAll_links _, ?_⟩
  rw [← r0_kept, ← lowByte_eq_ofNat]
  rfl

/-- Settles O37: HALT writes its message and sets the run state after the link write. -/
theorem haltResult : Obligations.HaltResult := by
  intro i s hi
  have runs : exec i s = .next s.link.serviceHalt := by rcases hi with rfl | rfl <;> rfl
  exact ⟨_, runs, s.link_setPc_links s.pc, rfl, rfl⟩

/-- The vectors outside 0x20 to 0x25 are those of no service (30_encoding.md R113). -/
theorem supportedVector_eq_false {v : BitVec 8} (h : v < 0x20 ∨ 0x25 < v) : supportedVector v = false := by
  rw [Bool.eq_false_iff, Ne, supportedVector_iff]
  bv_omega

/-- The dispatcher on a vector of no service (R220). -/
theorem trapService_of_unsupported {v : BitVec 8} (h : supportedVector v = false) (s : State) :
    trapService v s = .next (s.serviceUnsupported v) := by
  rcases trapService_cases v s with ⟨rfl, _⟩ | ⟨rfl, _⟩ | ⟨rfl, _⟩ | ⟨rfl, _⟩ | ⟨rfl, _⟩ | ⟨rfl, _⟩ | ⟨_, runs⟩
  case inr.inr.inr.inr.inr.inr => exact runs
  all_goals exact absurd h (by decide)

/-- An unsupported vector sets the run state under FATAL and does nothing else. -/
theorem State.serviceUnsupported_eq (s : State) (v : BitVec 8) :
    s.serviceUnsupported v = { s with run :=
      if s.cfg.unsupportedPolicy = .fatal then .halted (some (.unsupportedTrapVector v (s.pc - 1))) else s.run } := by
  rcases s.serviceUnsupported_cases v with ⟨policy, e⟩ | ⟨policy, e⟩ <;> rw [e, policy] <;> rfl

/-- Settles O38: the link write, and then the run state alone. -/
theorem unsupportedVectorResult : Obligations.UnsupportedVectorResult := by
  intro s v hv
  have runs : exec (.trap v) s = .next (s.link.serviceUnsupported v) :=
    trapService_of_unsupported (supportedVector_eq_false hv) s.link
  rw [State.serviceUnsupported_eq] at runs
  exact ⟨_, runs, s.link_setPc_links s.pc, rfl⟩

/-- A word of opcode 0xD decodes to RES with its low twelve bits (30_encoding.md R101, R115). -/
theorem decode_of_topBits_res {w : Word} (top : w.extractLsb' 12 4 = 0xD) : decode w = .res (w.extractLsb' 0 12) := by
  have opcode : opcodeOf w = .res := by rw [opcodeOf, top]; rfl
  rw [decode, opcode]

/-- Settles O39: 0xD and the low twelve bits are the word again, so the record holds the word itself. -/
theorem resResult : Obligations.ResResult := by
  intro s w top
  refine ⟨decode_of_topBits_res top, ?_⟩
  have recorded : (0xD#4 ++ w.extractLsb' 0 12 : Word) = w := join_low12 top
  rw [exec, execRes, recorded]
  cases s.cfg.unsupportedPolicy with
  | fatal => rfl
  | ignore => rfl

/-- Settles O40: RTI's arm answers the state it is given. -/
theorem rtiIsANoOp : Obligations.RtiIsANoOp := fun _ => rfl

end Sys2Proof.Machine
end

section
/-! What no trap service changes (44_trap_system.md R211, R212). -/

namespace Sys2Proof.Machine

/-- The row of R212 that a service's changes stay in, from the state after the link write. -/
structure ServiceFrame (v : BitVec 8) (s t : State) : Prop where
  pc : t.pc = s.pc
  regs : ∀ q : Reg, q ≠ 0 → t.reg q = s.reg q
  result : v ≠ 0x20 → v ≠ 0x23 → t.reg 0 = s.reg 0 ∧ t.cond = s.cond
  mem : v ≠ 0x22 → v ≠ 0x24 → s.SameMem t
  mem_other : ∀ b, b ≠ s.cfg.kbsrAddr → b ≠ s.cfg.kbdrAddr → Mem.read t.mem b = Mem.read s.mem b

/-- OUT, HALT and the unsupported vectors change streams and run state only. -/
theorem ServiceFrame.of_same {v : BitVec 8} {s t : State} (hpc : t.pc = s.pc) (hregs : t.regs = s.regs)
    (hcond : t.cond = s.cond) (hmem : t.mem = s.mem) : ServiceFrame v s t where
  pc := hpc
  regs := fun q _ => by rw [State.reg, hregs, State.reg]
  result := fun _ _ => ⟨by rw [State.reg, hregs, State.reg], hcond⟩
  mem := fun _ _ b => by rw [hmem]
  mem_other := fun b _ _ => by rw [hmem]

/-- GETC and IN change R0 and COND, and no cell; the prompt before the read changes neither. -/
theorem ServiceFrame.of_input {v : BitVec 8} (hv : v = 0x20 ∨ v = 0x23) (s : State) (bs : List Byte)
    (svc : InputService) : ServiceFrame v s ((s.outAll bs).trapInput svc) := by
  obtain ⟨hpc, hmem, _, _, _, hregs⟩ := (s.outAll bs).trapInput_frame svc
  exact ⟨hpc, hregs, fun h0 h3 => (hv.elim h0 h3).elim, fun _ _ b => by rw [hmem]; rfl, fun b _ _ => by rw [hmem]; rfl⟩

/-- A scan changes no register and, of memory, the keyboard's two cells at most. -/
theorem ServiceFrame.of_scan {v : BitVec 8} (hv : v = 0x22 ∨ v = 0x24) {s t : State} (h : ScanRel s t) :
    ServiceFrame v s t where
  pc := h.pc
  regs := fun q _ => by rw [State.reg, h.regs, State.reg]
  result := fun _ _ => ⟨by rw [State.reg, h.regs, State.reg], h.cond⟩
  mem := fun h2 h4 => (hv.elim h2 h4).elim
  mem_other := h.mem

/-- Every service stays in its row. -/
theorem trapService_frame {v : BitVec 8} {s t : State} (h : trapService v s = .next t) : ServiceFrame v s t := by
  rcases trapService_cases v s with ⟨hv, e⟩ | ⟨_, e⟩ | ⟨hv, e⟩ | ⟨hv, e⟩ | ⟨hv, e⟩ | ⟨_, e⟩ | ⟨_, e⟩ <;> rw [e] at h
  · cases h
    have no_prompt : s.serviceGetc = (s.outAll []).trapInput .getc := by
      rw [State.outAll, List.append_nil, State.serviceGetc]
    rw [no_prompt]
    exact .of_input (.inl hv) s [] .getc
  · cases h; exact .of_same rfl rfl rfl rfl
  · exact .of_scan (.inl hv) (scanPuts_rel (scanOutcome_next.1 h))
  · cases h; exact .of_input (.inr hv) s s.cfg.inPrompt .inp
  · exact .of_scan (.inr hv) (scanPutsp_rel (scanOutcome_next.1 h))
  · cases h; exact .of_same rfl rfl rfl rfl
  · cases h
    rw [State.serviceUnsupported_eq]
    exact .of_same rfl rfl rfl rfl

/-- Settles O41: the link write puts `pc'` into R7, and the service after it stays in its row. -/
theorem servicesChangeOnlyTheirRow : Obligations.ServicesChangeOnlyTheirRow := by
  intro v s t h
  obtain ⟨hpc, hregs, hresult, hmem, hother⟩ := trapService_frame (s := s.link) h
  obtain ⟨link_pc, link_r7, link_regs, -⟩ := s.link_traps
  have r0_kept : s.link.reg 0 = s.reg 0 := s.link_reg 0
  rw [r0_kept] at hresult
  exact ⟨hpc.trans link_pc, (hregs 7 (by decide)).trans link_r7, fun q h0 h7 => (hregs q h0).trans (link_regs q h0 h7),
    hresult, hmem, hother⟩

end Sys2Proof.Machine
end

section
/-! PUTS and PUTSP over a string that ends in plain memory (44_trap_system.md R216, R218). -/

namespace Sys2Proof.Machine

/-- The cells from `p` on, wrapping, hold the words `ws`, and no device is registered among them. -/
def State.Holds (s : State) (p : Word) (ws : List Word) : Prop :=
  ∀ j (h : j < ws.length), s.deviceAt (p + BitVec.ofNat 16 j) = none ∧ Mem.read s.mem (p + BitVec.ofNat 16 j) = ws[j]

/-- The cell `j + 1` from `p` is the cell `j` from the next one. -/
theorem add_ofNat_succ (p : Word) (j : Nat) : p + BitVec.ofNat 16 (j + 1) = p + 1 + BitVec.ofNat 16 j := by
  rw [BitVec.add_assoc, Nat.add_comm j 1, BitVec.ofNat_add]
  rfl

/-- Addresses wrap: whole turns over the 65536 cells lead nowhere. -/
theorem ofNat_turns_add (u k : Nat) : BitVec.ofNat 16 (65536 * u + k) = BitVec.ofNat 16 k := by
  apply BitVec.eq_of_toNat_eq
  rw [BitVec.toNat_ofNat, BitVec.toNat_ofNat, Nat.mul_add_mod]

/-- A string, taken apart at its first cell. -/
theorem State.Holds.cons {s : State} {p w : Word} {ws : List Word} (h : s.Holds p (w :: ws)) :
    s.deviceAt p = none ∧ Mem.read s.mem p = w ∧ s.Holds (p + 1) ws := by
  have first := h 0 (Nat.zero_lt_succ _)
  rw [BitVec.add_zero] at first
  refine ⟨first.1, first.2, fun j hj => ?_⟩
  rw [← add_ofNat_succ]
  exact h (j + 1) (Nat.succ_lt_succ hj)

/-- A string with one more cell at its end. -/
theorem State.Holds.concat {s : State} {p z : Word} {ws : List Word} (h : s.Holds p ws)
    (hdev : s.deviceAt (p + BitVec.ofNat 16 ws.length) = none)
    (hz : Mem.read s.mem (p + BitVec.ofNat 16 ws.length) = z) : s.Holds p (ws ++ [z]) := by
  intro j hj
  rw [List.length_append, List.length_singleton] at hj
  rcases Nat.lt_succ_iff_lt_or_eq.1 hj with hlt | rfl
  · rw [List.getElem_append_left hlt]; exact h j hlt
  · rw [List.getElem_concat_length rfl]; exact ⟨hdev, hz⟩

/-- A string without its terminator fits into memory: past 65536 cells it would have met the terminator before. -/
theorem State.Holds.length_lt {s : State} {p z : Word} {ws : List Word} (h : s.Holds p (ws ++ [z])) (hz : z ∉ ws) :
    ws.length < 65536 := by
  by_contra long
  have one_turn_before : BitVec.ofNat 16 (ws.length - 65536) = BitVec.ofNat 16 ws.length := by
    rw [← ofNat_turns_add 1, Nat.mul_one, Nat.add_sub_of_le (Nat.le_of_not_lt long)]
  have inside : ws.length - 65536 < ws.length := by omega
  obtain ⟨_, early⟩ := h (ws.length - 65536) (by rw [List.length_append]; omega)
  obtain ⟨_, last⟩ := h ws.length (by rw [List.length_append]; exact Nat.lt_succ_self _)
  rw [List.getElem_append_left inside, one_turn_before] at early
  rw [List.getElem_concat_length rfl] at last
  exact hz (last ▸ early ▸ List.getElem_mem inside)

/-- The bound on a scan is at least one turn over memory. -/
theorem lt_scanFuel {n : Nat} (s : State) (h : n < 65536) : n < scanFuel s := by
  unfold scanFuel
  omega

/-- What PUTSP writes of the cell it ends at: its low byte, unless that is zero (R218). -/
def lastBytes (z : Word) : List Byte := if lowByte z = 0 then [] else [lowByte z]

section
variable {s : State} {p : Word} (hdev : s.deviceAt p = none) (fuel : Nat)
include hdev

/-- PUTS at a zero cell ends (R216). -/
theorem scanPuts_stop (hz : Mem.read s.mem p = 0) : scanPuts (fuel + 1) p s = some s := by
  rw [scanPuts, (memReadRule s p).2 hdev, if_pos hz]

/-- PUTS at another cell writes its low byte and goes on (R216). -/
theorem scanPuts_next (hne : Mem.read s.mem p ≠ 0) :
    scanPuts (fuel + 1) p s = scanPuts fuel (p + 1) (s.out (lowByte (Mem.read s.mem p))) := by
  rw [scanPuts, (memReadRule s p).2 hdev, if_neg hne]

/-- PUTSP at a cell with a zero byte ends (R218). -/
theorem scanPutsp_stop (hz : lowByte (Mem.read s.mem p) = 0 ∨ highByte (Mem.read s.mem p) = 0) :
    scanPutsp (fuel + 1) p s = some (s.outAll (lastBytes (Mem.read s.mem p))) := by
  rw [scanPutsp, (memReadRule s p).2 hdev, lastBytes]
  by_cases low : lowByte (Mem.read s.mem p) = 0
  · simp only [if_pos low, State.outAll, List.append_nil]
  · simp only [if_neg low, if_pos (hz.resolve_left low)]
    rfl

/-- PUTSP at another cell writes its low byte, then its high byte, and goes on (R218). -/
theorem scanPutsp_next (hlow : lowByte (Mem.read s.mem p) ≠ 0) (hhigh : highByte (Mem.read s.mem p) ≠ 0) :
    scanPutsp (fuel + 1) p s =
      scanPutsp fuel (p + 1) (s.outAll [lowByte (Mem.read s.mem p), highByte (Mem.read s.mem p)]) := by
  rw [scanPutsp, (memReadRule s p).2 hdev]
  simp only [if_neg hlow, if_neg hhigh]
  rw [State.out, State.out, State.outAll, List.append_assoc]
  rfl

end

/-- Output in two parts is output. -/
theorem State.outAll_outAll (s : State) (bs cs : List Byte) : (s.outAll bs).outAll cs = s.outAll (bs ++ cs) := by
  simp only [State.outAll, List.append_assoc]

/-- PUTS over a string of non-zero words, by induction on the words. -/
theorem scanPuts_of_holds {l : List Word} : ∀ {fuel : Nat} {p : Word} {s : State}, s.Holds p (l ++ [0]) →
    (∀ w ∈ l, w ≠ 0) → l.length < fuel → scanPuts fuel p s = some (s.outAll (l.map lowByte)) := by
  induction l with
  | nil =>
    rintro (_ | fuel) p s holds - hfuel
    · cases hfuel
    · obtain ⟨hdev, hz, -⟩ := holds.cons
      rw [scanPuts_stop hdev fuel hz, List.map_nil, State.outAll, List.append_nil]
  | cons w l ih =>
    rintro (_ | fuel) p s holds hne hfuel
    · cases hfuel
    · obtain ⟨hdev, rfl, rest⟩ := holds.cons
      obtain ⟨w_ne, l_ne⟩ := List.forall_mem_cons.1 hne
      rw [scanPuts_next hdev fuel w_ne, ih (s := s.out _) rest l_ne (Nat.lt_of_succ_lt_succ hfuel)]
      exact congrArg some (s.outAll_outAll [_] _)

/-- The word of two packed bytes, the first written in the low half (20_memory.md R68). -/
def packedWord (v : Byte × Byte) : Word := v.2 ++ v.1

theorem lowByte_append (hi lo : Byte) : lowByte (hi ++ lo) = lo :=
  BitVec.extractLsb'_append_eq_right

theorem highByte_append (hi lo : Byte) : highByte (hi ++ lo) = hi :=
  BitVec.extractLsb'_append_eq_left

/-- PUTSP over a string of pairs of non-zero bytes, by induction on the pairs. -/
theorem scanPutsp_of_holds {l : List (Byte × Byte)} {z : Word} (hz : lowByte z = 0 ∨ highByte z = 0) :
    ∀ {fuel : Nat} {p : Word} {s : State}, s.Holds p (l.map packedWord ++ [z]) → (∀ v ∈ l, v.1 ≠ 0 ∧ v.2 ≠ 0) →
    l.length < fuel → scanPutsp fuel p s = some (s.outAll (l.flatMap (fun v => [v.1, v.2]) ++ lastBytes z)) := by
  induction l with
  | nil =>
    rintro (_ | fuel) p s holds - hfuel
    · cases hfuel
    · obtain ⟨hdev, rfl, -⟩ := holds.cons
      exact scanPutsp_stop hdev fuel hz
  | cons v l ih =>
    rintro (_ | fuel) p s holds hne hfuel
    · cases hfuel
    · obtain ⟨hdev, hv, rest⟩ := holds.cons
      obtain ⟨⟨low_ne, high_ne⟩, l_ne⟩ := List.forall_mem_cons.1 hne
      have low : lowByte (Mem.read s.mem p) = v.1 := by rw [hv, packedWord, lowByte_append]
      have high : highByte (Mem.read s.mem p) = v.2 := by rw [hv, packedWord, highByte_append]
      rw [scanPutsp_next hdev fuel (low ▸ low_ne) (high ▸ high_ne),
        ih (s := s.outAll _) rest l_ne (Nat.lt_of_succ_lt_succ hfuel), low, high]
      exact congrArg some (s.outAll_outAll [_, _] _)

/-- Settles O35: the words and the zero cell are a string in the state after the link write, and it is shorter than the
scan's bound. -/
theorem putsWritesTheString : Obligations.PutsWritesTheString := by
  intro i s l hi hwords hdev hz
  have runs : exec i s = servicePuts s.link := by rcases hi with rfl | rfl <;> rfl
  have string : s.link.Holds (s.reg 0) (l ++ [0]) :=
    State.Holds.concat (fun j hj => ⟨(hwords j hj).1, (hwords j hj).2.1⟩) hdev hz
  have nonzero : ∀ w ∈ l, w ≠ 0 := fun w hw => by
    obtain ⟨j, hj, rfl⟩ := List.mem_iff_getElem.1 hw
    exact (hwords j hj).2.2
  have in_bound := lt_scanFuel s.link (string.length_lt fun h => nonzero 0 h rfl)
  have r0_kept : s.link.reg 0 = s.reg 0 := s.link_reg 0
  refine ⟨_, ?_, s.link_outAll_links (l.map lowByte), rfl⟩
  rw [runs, servicePuts, r0_kept, scanPuts_of_holds string nonzero in_bound, scanOutcome]

/-- The two ways a packed string ends (R218): a zero byte is there, and `last` is what the cell still writes. -/
theorem lastBytes_of_end {z : Word} {last : List Byte}
    (h : (last = [] ∧ ∃ hi : Byte, z = hi ++ 0#8) ∨ ∃ lo : Byte, lo ≠ 0 ∧ last = [lo] ∧ z = 0#8 ++ lo) :
    (lowByte z = 0 ∨ highByte z = 0) ∧ lastBytes z = last := by
  rcases h with ⟨rfl, hi, rfl⟩ | ⟨lo, hlo, rfl, rfl⟩
  · exact ⟨.inl (lowByte_append hi 0#8), if_pos (lowByte_append hi 0#8)⟩
  · rw [lastBytes, lowByte_append]
    exact ⟨.inr (highByte_append 0#8 lo), if_neg hlo⟩

/-- Settles O36: the packed words and the last cell are a string in the state after the link write. -/
theorem putspWritesThePackedString : Obligations.PutspWritesThePackedString := by
  intro i s l last hi hwords hdev hend
  have runs : exec i s = servicePutsp s.link := by rcases hi with rfl | rfl <;> rfl
  obtain ⟨zero_byte, rfl⟩ := lastBytes_of_end hend
  have words : s.link.Holds (s.reg 0) (l.map packedWord) := fun j hj => by
    rw [List.length_map] at hj
    rw [List.getElem_map]
    exact ⟨(hwords j hj).1, (hwords j hj).2.1⟩
  have nonzero : ∀ v ∈ l, v.1 ≠ 0 ∧ v.2 ≠ 0 := fun v hv => by
    obtain ⟨j, hj, rfl⟩ := List.mem_iff_getElem.1 hv
    exact (hwords j hj).2.2
  have string := words.concat (by rw [List.length_map]; exact hdev) (by rw [List.length_map])
  have no_early_end : Mem.read s.mem (s.reg 0 + BitVec.ofNat 16 l.length) ∉ l.map packedWord := fun h => by
    obtain ⟨v, hv, e⟩ := List.mem_map.1 h
    rw [← e, packedWord, lowByte_append, highByte_append] at zero_byte
    exact zero_byte.elim (nonzero v hv).1 (nonzero v hv).2
  have in_bound := lt_scanFuel s.link (string.length_lt no_early_end)
  rw [List.length_map] at in_bound
  have r0_kept : s.link.reg 0 = s.reg 0 := s.link_reg 0
  refine ⟨_, ?_, s.link_outAll_links _, (List.append_assoc _ _ _).symm⟩
  rw [runs, servicePutsp, r0_kept, scanPutsp_of_holds zero_byte string nonzero in_bound, scanOutcome]

end Sys2Proof.Machine
end

section
/-! The keyboard activated again and again (20_memory.md R74): once the listed inputs are used up and the stream's cycle has
passed once, the state repeats with each cycle. -/

namespace Sys2Proof.Machine

/-- The writes of a list, in order. -/
def Mem.writeAll (m : Mem) (ws : List (Word × Word)) : Mem := ws.foldl (fun m w => Mem.write m w.1 w.2) m

theorem Mem.writeAll_append (m : Mem) (ws vs : List (Word × Word)) :
    Mem.writeAll m (ws ++ vs) = Mem.writeAll (Mem.writeAll m ws) vs := List.foldl_append

theorem Mem.wf_writeAll {m : Mem} (ws : List (Word × Word)) (h : Mem.wf m = true) : Mem.wf (Mem.writeAll m ws) = true := by
  induction ws generalizing m with
  | nil => exact h
  | cons w ws ih => exact ih (Mem.wf_write m w.1 w.2 h)

/-- A cell that none of the writes is at reads as before. -/
theorem Mem.read_writeAll_outside {m : Mem} {ws : List (Word × Word)} {b : Word} (hb : b ∉ ws.map Prod.fst) :
    Mem.read (Mem.writeAll m ws) b = Mem.read m b := by
  induction ws generalizing m with
  | nil => rfl
  | cons w ws ih =>
    rw [List.map_cons, List.mem_cons, not_or] at hb
    exact (ih hb.2).trans (Mem.read_write_other m w.1 b w.2 hb.1)

/-- A cell that one of the writes is at reads the last of them, whatever the memory was. -/
theorem Mem.read_writeAll_inside {m m' : Mem} {ws : List (Word × Word)} {b : Word} (hb : b ∈ ws.map Prod.fst)
    (hm : Mem.wf m = true) (hm' : Mem.wf m' = true) :
    Mem.read (Mem.writeAll m ws) b = Mem.read (Mem.writeAll m' ws) b := by
  induction ws generalizing m m' with
  | nil => cases hb
  | cons w ws ih =>
    by_cases later : b ∈ ws.map Prod.fst
    · exact ih later (Mem.wf_write m w.1 w.2 hm) (Mem.wf_write m' w.1 w.2 hm')
    · obtain rfl : b = w.1 := (List.mem_cons.1 hb).resolve_right later
      calc Mem.read (Mem.writeAll (Mem.write m w.1 w.2) ws) w.1
          = w.2 := (Mem.read_writeAll_outside later).trans (Mem.read_write_same m w.1 w.2 hm)
        _ = Mem.read (Mem.writeAll (Mem.write m' w.1 w.2) ws) w.1 :=
          ((Mem.read_writeAll_outside later).trans (Mem.read_write_same m' w.1 w.2 hm')).symm

/-- The same writes a second time change nothing. -/
theorem Mem.writeAll_writeAll {m : Mem} (ws : List (Word × Word)) (hm : Mem.wf m = true) :
    Mem.writeAll (Mem.writeAll m ws) ws = Mem.writeAll m ws := by
  have once := Mem.wf_writeAll ws hm
  refine canonicalMemoriesThatReadAlikeAreEqual _ _ (Mem.wf_writeAll ws once) once fun b => ?_
  by_cases hb : b ∈ ws.map Prod.fst
  · exact Mem.read_writeAll_inside hb once hm
  · exact Mem.read_writeAll_outside hb

/-- What an activation writes at a moment of the input stream (R74). -/
def momentWrites (cfg : Config) : HostInput → List (Word × Word)
  | .byte c => [(cfg.kbsrAddr, cfg.kbReady), (cfg.kbdrAddr, c.setWidth 16)]
  | .pause => [(cfg.kbsrAddr, cfg.kbNotReady)]

/-- One round of what the keyboard meets when no input is listed: the stream's cycle, and of a stream that supplies nothing
one moment without a byte. -/
def InputEnd.round (e : InputEnd) : List HostInput := if e.cycle = [] then [.pause] else e.cycle

theorem InputEnd.round_eq_cons (e : InputEnd) : ∃ x xs, e.round = x :: xs := by
  unfold InputEnd.round
  split
  · exact ⟨_, _, rfl⟩
  · next h => exact List.exists_cons_of_ne_nil h

theorem InputEnd.round_length_le (e : InputEnd) : e.round.length ≤ e.cycle.length + 1 := by
  unfold InputEnd.round
  split
  · exact Nat.le_add_left _ _
  · exact Nat.le_succ _

theorem State.upcoming_of_cons {s : State} {e : HostInput} {rest : List HostInput} (h : s.inq = e :: rest) :
    s.upcoming = e :: rest := by rw [State.upcoming, h]

theorem State.upcoming_of_nil {s : State} (h : s.inq = []) : s.upcoming = s.inEnd.cycle := by rw [State.upcoming, h]

/-- An activation at a moment of the stream makes that moment's writes. -/
theorem State.activateKeyboard_moment {s : State} {e : HostInput} {rest : List HostInput} (h : s.upcoming = e :: rest) :
    s.activateKeyboard = { s with inq := rest, mem := Mem.writeAll s.mem (momentWrites s.cfg e) } := by
  rw [State.activateKeyboard, h]
  cases e with
  | byte c => rfl
  | pause => rfl

/-- An activation when the stream supplies nothing any more. -/
theorem State.activateKeyboard_silent {s : State} (h : s.upcoming = []) :
    s.activateKeyboard = s.memWrite s.cfg.kbsrAddr s.cfg.kbNotReady := by
  rw [State.activateKeyboard, h]

/-- With nothing listed an activation meets the next round. -/
theorem State.activateKeyboard_unlisted {s : State} (h : s.inq = []) :
    s.activateKeyboard = { s with inq := s.inEnd.round }.activateKeyboard := by
  have next := State.upcoming_of_nil h
  cases hc : s.inEnd.cycle with
  | nil =>
    have silent : s.inEnd.round = [.pause] := if_pos hc
    rw [State.activateKeyboard_moment (s := { s with inq := s.inEnd.round }) (State.upcoming_of_cons silent),
      State.activateKeyboard_silent (next.trans hc), State.memWrite, h]
    rfl
  | cons e rest =>
    have cycle : s.inEnd.round = e :: rest := by rw [InputEnd.round, if_neg (by rw [hc]; exact nofun), hc]
    rw [State.activateKeyboard_moment (s := { s with inq := s.inEnd.round }) (State.upcoming_of_cons cycle),
      State.activateKeyboard_moment (next.trans hc)]

/-- As many activations as there are moments in `l`, which the input lists next. -/
theorem State.iterate_listed {l r : List HostInput} : ∀ {s : State}, s.inq = l ++ r →
    State.activateKeyboard^[l.length] s = { s with inq := r, mem := Mem.writeAll s.mem (l.flatMap (momentWrites s.cfg)) } := by
  induction l with
  | nil => intro s h; subst h; rfl
  | cons e l ih =>
    intro s h
    rw [List.length_cons, Function.iterate_succ_apply, State.activateKeyboard_moment (State.upcoming_of_cons h), ih rfl,
      List.flatMap_cons, Mem.writeAll_append]

/-- With nothing listed any number of activations meet the next round first. -/
theorem State.iterate_unlisted {s : State} (h : s.inq = []) (n : Nat) :
    State.activateKeyboard^[n + 1] s = State.activateKeyboard^[n + 1] { s with inq := s.inEnd.round } := by
  rw [Function.iterate_succ_apply, Function.iterate_succ_apply, State.activateKeyboard_unlisted h]

/-- A whole round, with nothing listed before it and nothing after it. -/
theorem State.iterate_round {s : State} (h : s.inq = []) : State.activateKeyboard^[s.inEnd.round.length] s =
    { s with mem := Mem.writeAll s.mem (s.inEnd.round.flatMap (momentWrites s.cfg)) } := by
  have listed := State.iterate_listed (s := { s with inq := s.inEnd.round }) (List.append_nil s.inEnd.round).symm
  obtain ⟨x, xs, hround⟩ := s.inEnd.round_eq_cons
  have moments : s.inEnd.round.length = xs.length + 1 := by rw [hround, List.length_cons]
  rw [moments, State.iterate_unlisted h, ← moments, listed, ← h]

/-- What stays true of a state under activations of its keyboard. -/
theorem State.iterate_frame (n : Nat) (s : State) : (State.activateKeyboard^[n] s).cfg = s.cfg ∧
    (State.activateKeyboard^[n] s).inEnd = s.inEnd ∧
    (Mem.wf s.mem = true → Mem.wf (State.activateKeyboard^[n] s).mem = true) := by
  induction n with
  | zero => exact ⟨rfl, rfl, id⟩
  | succ n ih =>
    obtain ⟨hcfg, hend, hwf⟩ := ih
    rw [Function.iterate_succ_apply']
    obtain ⟨_, _, _, _, kend, _, _, kcfg⟩ := (State.activateKeyboard^[n] s).activateKeyboard_frame
    exact ⟨kcfg.trans hcfg, kend.trans hend, fun h => State.activateKeyboard_wf _ (hwf h)⟩

/-- After the listed inputs and one round, the activations repeat with each round: the second round finds the cells as the
first one left them. -/
theorem State.iterate_periodic {s : State} (hwf : Mem.wf s.mem = true) {m : Nat}
    (hm : s.inq.length + s.inEnd.round.length ≤ m) :
    Function.IsPeriodicPt State.activateKeyboard s.inEnd.round.length (State.activateKeyboard^[m] s) := by
  have used_up := State.iterate_listed (List.append_nil s.inq).symm
  obtain ⟨k, rfl⟩ := Nat.exists_eq_add_of_le hm
  rw [Nat.add_comm, Function.iterate_add_apply, Nat.add_comm, Function.iterate_add_apply, used_up]
  refine Function.IsPeriodicPt.apply_iterate ?_ k
  have first_round := State.iterate_round (s := { s with
    inq := [], mem := Mem.writeAll s.mem (s.inq.flatMap (momentWrites s.cfg)) }) rfl
  have second_round := State.iterate_round (s := { s with
    inq := [], mem := Mem.writeAll (Mem.writeAll s.mem (s.inq.flatMap (momentWrites s.cfg)))
      (s.inEnd.round.flatMap (momentWrites s.cfg)) }) rfl
  rw [Mem.writeAll_writeAll _ (Mem.wf_writeAll _ hwf)] at second_round
  rw [first_round]
  exact second_round

end Sys2Proof.Machine
end

section
/-! The cells a scan reads (44_trap_system.md R216, R218): the state it reads a cell in is the start's after one keyboard
activation for each registered cell on the way. -/

namespace Sys2Proof.Machine

/-- The state after one read of each of the `n` cells from `p`, wrapping. -/
def State.readCells : Nat → Word → State → State
  | 0, _, s => s
  | n + 1, p, s => State.readCells n (p + 1) (s.afterRead p)

/-- The word that a scan from `p` reads at its cell `i`. -/
def State.cellRead (s : State) (p : Word) (i : Nat) : Word :=
  Mem.read (State.readCells (i + 1) p s).mem (p + BitVec.ofNat 16 i)

theorem State.cellRead_zero (s : State) (p : Word) : s.cellRead p 0 = (s.memRead p).1 := by
  rw [State.cellRead, BitVec.add_zero]
  rfl

theorem State.cellRead_succ (s : State) (p : Word) (i : Nat) :
    s.cellRead p (i + 1) = (s.afterRead p).cellRead (p + 1) i := by
  rw [State.cellRead, add_ofNat_succ]
  rfl

/-- Output and activation do not meet. -/
theorem State.activateKeyboard_out (s : State) (b : Byte) : (s.out b).activateKeyboard = s.activateKeyboard.out b := by
  unfold State.activateKeyboard
  rw [State.out_upcoming]
  cases s.upcoming with
  | nil => rfl
  | cons e rest =>
    cases e with
    | byte c => rfl
    | pause => rfl

theorem State.afterRead_out (s : State) (b : Byte) (a : Word) : (s.out b).afterRead a = (s.afterRead a).out b := by
  rcases s.afterRead_cases a with ⟨hdev, h⟩ | ⟨hdev, h⟩
  · rw [h, State.afterRead_plain (s.out b) a hdev]
  · rw [h, State.afterRead_device (s.out b) a _ hdev, State.activateKeyboard_out]

theorem State.readCells_out (n : Nat) (p : Word) (s : State) (b : Byte) :
    State.readCells n p (s.out b) = (State.readCells n p s).out b := by
  induction n generalizing p s with
  | zero => rfl
  | succ n ih => rw [State.readCells, State.afterRead_out, ih, State.readCells]

/-- What a scan writes does not change what it reads. -/
theorem State.cellRead_out (s : State) (b : Byte) (p : Word) (i : Nat) : (s.out b).cellRead p i = s.cellRead p i := by
  rw [State.cellRead, State.readCells_out, State.out_mem, State.cellRead]

/-- PUTS meets no terminator in `n` cells exactly when it reads no zero in them. -/
theorem scanPuts_eq_none_iff (n : Nat) (p : Word) (s : State) :
    scanPuts n p s = none ↔ ∀ i < n, s.cellRead p i ≠ 0 := by
  induction n generalizing p s with
  | zero => exact ⟨fun _ _ h => absurd h (Nat.not_lt_zero _), fun _ => rfl⟩
  | succ n ih =>
    rw [Nat.forall_lt_succ_left, State.cellRead_zero, scanPuts]
    by_cases stop : (s.memRead p).1 = 0
    · rw [if_pos stop]
      exact ⟨nofun, fun h => absurd stop h.1⟩
    · rw [if_neg stop, ih]
      simp only [State.cellRead_out, State.memRead_snd, State.cellRead_succ]
      exact ⟨fun h => ⟨stop, h⟩, And.right⟩

/-- PUTSP goes on past a cell whose two bytes are not zero (R218). -/
def BothBytes (v : Word) : Prop := lowByte v ≠ 0 ∧ highByte v ≠ 0

/-- PUTSP meets no terminator in `n` cells exactly when it reads no zero byte in them. -/
theorem scanPutsp_eq_none_iff (n : Nat) (p : Word) (s : State) :
    scanPutsp n p s = none ↔ ∀ i < n, BothBytes (s.cellRead p i) := by
  induction n generalizing p s with
  | zero => exact ⟨fun _ _ h => absurd h (Nat.not_lt_zero _), fun _ => rfl⟩
  | succ n ih =>
    rw [Nat.forall_lt_succ_left, State.cellRead_zero, scanPutsp, BothBytes]
    by_cases low : lowByte (s.memRead p).1 = 0
    · simp only [if_pos low]
      exact ⟨nofun, fun h => absurd low h.1.1⟩
    · by_cases high : highByte (s.memRead p).1 = 0
      · simp only [if_neg low, if_pos high]
        exact ⟨nofun, fun h => absurd high h.1.2⟩
      · simp only [if_neg low, if_neg high, ih, State.cellRead_out, State.memRead_snd, State.cellRead_succ]
        exact ⟨fun h => ⟨⟨low, high⟩, h⟩, And.right⟩

/-- How many of the `n` cells from `p` are registered: the activations of a scan over them. -/
def State.visits (s : State) (p : Word) (n : Nat) : Nat :=
  Nat.count (fun i => (s.deviceAt (p + BitVec.ofNat 16 i)).isSome) n

theorem State.visits_add (s : State) (p : Word) (m n : Nat) :
    s.visits p (m + n) = s.visits p m + s.visits (p + BitVec.ofNat 16 m) n := by
  simp only [State.visits, Nat.count_add, BitVec.ofNat_add, BitVec.add_assoc]

/-- Each turn over the 65536 cells visits the registered ones once. -/
theorem State.visits_turns (s : State) (p : Word) (u : Nat) : s.visits p (65536 * u) = u * s.visits p 65536 := by
  induction u with
  | zero => rw [Nat.zero_mul]; rfl
  | succ u ih =>
    have turns_back : BitVec.ofNat 16 (65536 * u) = 0#16 := ofNat_turns_add u 0
    rw [Nat.mul_succ, State.visits_add, turns_back, BitVec.add_zero, ih, Nat.succ_mul]

/-- The reads of a scan are the activations at the registered cells it passes. -/
theorem State.readCells_eq_iterate (n : Nat) (p : Word) (s : State) :
    State.readCells n p s = State.activateKeyboard^[s.visits p n] s := by
  induction n generalizing p s with
  | zero => rfl
  | succ n ih =>
    have first : s.visits p (n + 1) = s.visits p 1 + (s.afterRead p).visits (p + 1) n := by
      rw [Nat.add_comm, State.visits_add]
      simp only [State.visits, State.afterRead_deviceAt]
      rfl
    have one : s.visits p 1 = if (s.deviceAt p).isSome then 1 else 0 := by
      rw [State.visits, Nat.count_one, BitVec.add_zero]
    rw [State.readCells, ih, first, one, Nat.add_comm, Function.iterate_add_apply]
    rcases s.afterRead_cases p with ⟨hdev, h⟩ | ⟨hdev, h⟩ <;> rw [h, hdev] <;> rfl

/-- A scan reads an unregistered cell in the state its activations so far have left. -/
theorem State.cellRead_plain {s : State} {p : Word} {i : Nat} (h : s.deviceAt (p + BitVec.ofNat 16 i) = none) :
    s.cellRead p i = Mem.read (State.activateKeyboard^[s.visits p i] s).mem (p + BitVec.ofNat 16 i) := by
  have no_visit : s.visits p (i + 1) = s.visits p i := by simp [State.visits, Nat.count_succ, h]
  rw [State.cellRead, State.readCells_eq_iterate, no_visit]

/-- A scan reads a registered cell after one more activation. -/
theorem State.cellRead_device {s : State} {p : Word} {i : Nat} (h : (s.deviceAt (p + BitVec.ofNat 16 i)).isSome) :
    s.cellRead p i =
      Mem.read (State.activateKeyboard^[s.visits p i] s).activateKeyboard.mem (p + BitVec.ofNat 16 i) := by
  have visit : s.visits p (i + 1) = s.visits p i + 1 := by simp [State.visits, Nat.count_succ, h]
  rw [State.cellRead, State.readCells_eq_iterate, visit, Function.iterate_succ_apply']

/-- A scan that goes on long enough comes to a registered cell after any number of activations. -/
theorem State.exists_visit {s : State} {a : Word} (h : (s.deviceAt a).isSome) (p : Word) (m : Nat) :
    ∃ i, s.visits p i = m ∧ (s.deviceAt (p + BitVec.ofNat 16 i)).isSome := by
  have again : ∀ n, ∃ i, (s.deviceAt (p + BitVec.ofNat 16 i)).isSome ∧ n < i := fun n => by
    have comes_back : p + BitVec.ofNat 16 (65536 * (n + 1) + (a - p).toNat) = a := by
      rw [ofNat_turns_add, BitVec.ofNat_toNat, BitVec.setWidth_eq, BitVec.add_comm, BitVec.sub_add_cancel]
    exact ⟨_, comes_back.symm ▸ h, by omega⟩
  have infinite : (Set.ofPred fun i => (s.deviceAt (p + BitVec.ofNat 16 i)).isSome = true).Infinite :=
    Set.infinite_of_forall_exists_gt again
  exact ⟨_, Nat.count_nth_of_infinite infinite m, Nat.nth_mem_of_infinite infinite m⟩

end Sys2Proof.Machine
end

section
/-! A scan that outlives its bound reads the same cells again and again (44_trap_system.md R223). -/

namespace Sys2Proof.Machine

/-- As many turns as a round has moments consume whole rounds, one for each registered cell, so they leave the state as it
was once the listed inputs and a first round have passed; with no registered cell no turn changes it. -/
theorem State.readCells_repeats {s : State} (hwf : Mem.wf s.mem = true) (p : Word) {n : Nat}
    (hn : 65536 * (s.inq.length + s.inEnd.round.length) ≤ n) :
    State.readCells (65536 * s.inEnd.round.length + n) p s = State.readCells n p s := by
  have turns : s.visits p (65536 * s.inEnd.round.length + n) = s.inEnd.round.length * s.visits p 65536 + s.visits p n := by
    have turns_back : BitVec.ofNat 16 (65536 * s.inEnd.round.length) = 0#16 := ofNat_turns_add _ 0
    rw [State.visits_add, State.visits_turns, turns_back, BitVec.add_zero]
  rw [State.readCells_eq_iterate, State.readCells_eq_iterate, turns]
  rcases Nat.eq_zero_or_pos (s.visits p 65536) with no_device | visited
  · rw [no_device, Nat.mul_zero, Nat.zero_add]
  · have passed : s.inq.length + s.inEnd.round.length ≤ s.visits p n :=
      calc s.inq.length + s.inEnd.round.length
          ≤ (s.inq.length + s.inEnd.round.length) * s.visits p 65536 := Nat.le_mul_of_pos_right _ visited
        _ = s.visits p (65536 * (s.inq.length + s.inEnd.round.length)) := (s.visits_turns p _).symm
        _ ≤ s.visits p n := Nat.count_monotone _ hn
    rw [Function.iterate_add_apply]
    exact (State.iterate_periodic hwf passed).mul_const (s.visits p 65536)

/-- Past the bound every cell read is one that was read a round earlier. -/
theorem State.cellRead_repeats {s : State} (hwf : Mem.wf s.mem = true) (p : Word) {i : Nat} (hi : scanFuel s ≤ i) :
    s.cellRead p i = s.cellRead p (i - 65536 * s.inEnd.round.length) := by
  have round_length := s.inEnd.round_length_le
  unfold scanFuel at hi
  obtain ⟨k, rfl⟩ : ∃ k, i = 65536 * s.inEnd.round.length + k := ⟨_, (Nat.add_sub_of_le (by omega)).symm⟩
  rw [Nat.add_sub_cancel_left, State.cellRead, Nat.add_assoc, State.readCells_repeats hwf p (by omega), ofNat_turns_add,
    State.cellRead]

/-- What holds of every cell a scan reads within its bound holds of every cell it reads at all. -/
theorem State.cellRead_of_bound {s : State} (hwf : Mem.wf s.mem = true) (p : Word) {goesOn : Word → Prop}
    (h : ∀ i < scanFuel s, goesOn (s.cellRead p i)) (i : Nat) : goesOn (s.cellRead p i) := by
  induction i using Nat.strongRecOn with
  | ind i ih =>
    by_cases bound : i < scanFuel s
    · exact h i bound
    · have past : scanFuel s ≤ i := Nat.le_of_not_lt bound
      have round_pos : 0 < s.inEnd.round.length := by
        obtain ⟨x, xs, hround⟩ := s.inEnd.round_eq_cons
        rw [hround]
        exact Nat.zero_lt_succ _
      have started : 0 < scanFuel s := lt_scanFuel s (by decide)
      rw [State.cellRead_repeats hwf p past]
      exact ih _ (by omega)

/-- Settles O43: both scans go on exactly while the cells they read let them. -/
theorem scanFaultIsAHang : Obligations.ScanFaultIsAHang := by
  intro s p hwf
  refine ⟨fun h n => ?_, fun h n => ?_⟩
  · rw [scanPuts_eq_none_iff] at h ⊢
    exact fun i _ => State.cellRead_of_bound (goesOn := (· ≠ 0)) hwf p h i
  · rw [scanPutsp_eq_none_iff] at h ⊢
    exact fun i _ => State.cellRead_of_bound hwf p h i

end Sys2Proof.Machine
end

section
/-! Scans that meet no terminator (44_trap_system.md R223). -/

namespace Sys2Proof.Machine

/-- PUTS hangs when no cell it reads is zero. -/
theorem servicePuts_hangs {s : State} (h : ∀ i, s.cellRead (s.reg 0) i ≠ 0) : servicePuts s = .fault .scanNeverEnds := by
  rw [servicePuts, (scanPuts_eq_none_iff _ _ _).2 fun i _ => h i, scanOutcome]

/-- PUTSP hangs when no cell it reads has a zero byte. -/
theorem servicePutsp_hangs {s : State} (h : ∀ i, BothBytes (s.cellRead (s.reg 0) i)) :
    servicePutsp s = .fault .scanNeverEnds := by
  rw [servicePutsp, (scanPutsp_eq_none_iff _ _ _).2 fun i _ => h i, scanOutcome]

/-- With no device registered a scan reads the raw cells. -/
theorem State.cellRead_no_device {s : State} (h : ∀ a, s.deviceAt a = none) (p : Word) (i : Nat) :
    s.cellRead p i = Mem.read s.mem (p + BitVec.ofNat 16 i) := by
  have no_visits : s.visits p i = 0 := Nat.count_iff_forall_not.2 fun j _ => by rw [h]; exact nofun
  rw [State.cellRead_plain (h _), no_visits, Function.iterate_zero_apply]

/-- On the default platform the keyboard is at KBSR alone (20_memory.md R66, R73). -/
theorem State.DefaultKeyboard.deviceAt {s : State} (h : s.DefaultKeyboard) (a : Word) :
    s.deviceAt a = if a = s.cfg.kbsrAddr then some .keyboard else none := by
  rw [State.deviceAt, h.1]
  rfl

/-- Every moment to come has a non-zero byte ready, and no cell but KBSR is zero. -/
structure State.KeepsFull (s : State) : Prop where
  wf : Mem.wf s.mem = true
  separate : s.cfg.kbsrAddr ≠ s.cfg.kbdrAddr
  endless : s.inEnd.cycle ≠ []
  bytes : ∀ e ∈ s.inq ++ s.inEnd.cycle, ∃ c : Byte, c ≠ 0 ∧ e = .byte c
  cells : ∀ a, a ≠ s.cfg.kbsrAddr → Mem.read s.mem a ≠ 0

/-- What such a stream supplies next are moments it lists or moments of its cycle, and there is one. -/
theorem State.KeepsFull.upcoming {s : State} (h : s.KeepsFull) :
    ∃ c rest, c ≠ 0 ∧ s.upcoming = .byte c :: rest ∧ ∀ e ∈ rest, e ∈ s.inq ++ s.inEnd.cycle := by
  obtain ⟨e, rest, next, from_stream⟩ : ∃ e rest, s.upcoming = e :: rest ∧ ∀ x ∈ e :: rest, x ∈ s.inq ++ s.inEnd.cycle := by
    cases hq : s.inq with
    | nil =>
      obtain ⟨e, rest, hc⟩ := List.exists_cons_of_ne_nil h.endless
      exact ⟨e, rest, (State.upcoming_of_nil hq).trans hc, fun x hx => hc ▸ hx⟩
    | cons e rest => exact ⟨e, rest, State.upcoming_of_cons hq, fun x hx => List.mem_append_left _ hx⟩
  obtain ⟨c, hc, rfl⟩ := h.bytes e (from_stream e (List.mem_cons_self ..))
  exact ⟨c, rest, hc, next, fun x hx => from_stream x (List.mem_cons_of_mem _ hx)⟩

/-- A byte that is not zero is not zero as a Word. -/
theorem ofNat_toNat_ne_zero {c : Byte} (h : c ≠ 0) : BitVec.ofNat 16 c.toNat ≠ 0 := fun e => by
  have bound := c.isLt
  have value := congrArg BitVec.toNat e
  rw [BitVec.toNat_ofNat, Nat.mod_eq_of_lt (by omega)] at value
  exact h (BitVec.eq_of_toNat_eq value)

/-- An activation fills the two cells again, with KB_READY and the byte, so memory stays full. -/
theorem State.KeepsFull.activate {s : State} (h : s.KeepsFull) : s.activateKeyboard.KeepsFull := by
  obtain ⟨c, rest, hc, next, from_stream⟩ := h.upcoming
  obtain ⟨with_byte, _, other_cells, _⟩ := keyboardActivation s h.wf h.separate
  obtain ⟨_, _, data⟩ := with_byte c rest next
  obtain ⟨_, _, _, _, hend, _, _, hcfg⟩ := s.activateKeyboard_frame
  have hinq : s.activateKeyboard.inq = rest := by rw [s.activateKeyboard_inq, next, List.tail_cons]
  refine ⟨s.activateKeyboard_wf h.wf, hcfg.symm ▸ h.separate, hend.symm ▸ h.endless, fun e he => ?_, fun a ha => ?_⟩
  · rw [hinq, hend] at he
    exact h.bytes e ((List.mem_append.1 he).elim (from_stream e) (List.mem_append_right _))
  · rw [hcfg] at ha
    by_cases is_data : a = s.cfg.kbdrAddr
    · subst is_data
      exact data ▸ ofNat_toNat_ne_zero hc
    · exact other_cells a ha is_data ▸ h.cells a ha

theorem State.KeepsFull.iterate {s : State} (h : s.KeepsFull) (n : Nat) : (State.activateKeyboard^[n] s).KeepsFull :=
  Function.Iterate.rec State.KeepsFull h (fun _ => State.KeepsFull.activate) n

/-- On the default platform PUTS reads no zero then: each visit of KBSR refills it (R74; decisions D6, D12). -/
theorem State.KeepsFull.cellRead_ne_zero {s : State} (h : s.KeepsFull) (hkb : s.DefaultKeyboard) (hready : s.cfg.kbReady ≠ 0)
    (p : Word) (i : Nat) : s.cellRead p i ≠ 0 := by
  have full := h.iterate (s.visits p i)
  obtain ⟨hcfg, -, -⟩ := s.iterate_frame (s.visits p i)
  have registered := hkb.deviceAt (p + BitVec.ofNat 16 i)
  by_cases at_status : p + BitVec.ofNat 16 i = s.cfg.kbsrAddr
  · rw [if_pos at_status] at registered
    rw [State.cellRead_device (by rw [registered]; rfl), at_status]
    obtain ⟨c, rest, _, next, _⟩ := full.upcoming
    obtain ⟨with_byte, _⟩ := keyboardActivation _ full.wf full.separate
    obtain ⟨_, status, _⟩ := with_byte c rest next
    rw [hcfg] at status
    exact status ▸ hready
  · rw [if_neg at_status] at registered
    rw [State.cellRead_plain registered]
    exact full.cells _ (hcfg.symm ▸ at_status)

/-- Settles O60: in each case no cell that the scan reads after the link write is its terminator. -/
theorem unterminatedScansNeverEnd : Obligations.UnterminatedScansNeverEnd := by
  intro i s hwf
  refine ⟨fun hi hcells => ?puts, fun hi hcells => ?putsp, fun hi hkb hsep hready hcycle hbytes hcells => ?keyboard⟩
  case puts =>
    have runs : exec i s = servicePuts s.link := by rcases hi with rfl | rfl <;> rfl
    refine runs.trans (servicePuts_hangs fun j => ?_)
    rw [State.cellRead_no_device (s := s.link) fun a => (hcells a).1]
    exact (hcells _).2
  case putsp =>
    have runs : exec i s = servicePutsp s.link := by rcases hi with rfl | rfl <;> rfl
    refine runs.trans (servicePutsp_hangs fun j => ?_)
    rw [State.cellRead_no_device (s := s.link) fun a => (hcells a).1]
    exact (hcells _).2
  case keyboard =>
    have runs : exec i s = servicePuts s.link := by rcases hi with rfl | rfl <;> rfl
    have full : s.link.KeepsFull := ⟨hwf, hsep, hcycle, hbytes, hcells⟩
    exact runs.trans (servicePuts_hangs (full.cellRead_ne_zero hkb hready _))

end Sys2Proof.Machine
end

section
/-! Every instruction completes on the default platform (44_trap_system.md R216, R218, R223; 20_memory.md R74). -/

namespace Sys2Proof.Machine

/-- PUTS completes when some cell it would read is zero: the bound is past the first such cell. -/
theorem servicePuts_completes {s : State} (hwf : Mem.wf s.mem = true) (h : ∃ i, s.cellRead (s.reg 0) i = 0) :
    ∃ t, servicePuts s = .next t := by
  obtain ⟨i, stop⟩ := h
  cases scan : scanPuts (scanFuel s) (s.reg 0) s with
  | some t => exact ⟨t, scanOutcome_next.2 scan⟩
  | none =>
    have goes_on := State.cellRead_of_bound (goesOn := (· ≠ 0)) hwf (s.reg 0) ((scanPuts_eq_none_iff _ _ _).1 scan)
    exact absurd stop (goes_on i)

/-- PUTSP completes when some cell it would read has a zero low byte. -/
theorem servicePutsp_completes {s : State} (hwf : Mem.wf s.mem = true) (h : ∃ i, lowByte (s.cellRead (s.reg 0) i) = 0) :
    ∃ t, servicePutsp s = .next t := by
  obtain ⟨i, stop⟩ := h
  cases scan : scanPutsp (scanFuel s) (s.reg 0) s with
  | some t => exact ⟨t, scanOutcome_next.2 scan⟩
  | none =>
    have goes_on := State.cellRead_of_bound hwf (s.reg 0) ((scanPutsp_eq_none_iff _ _ _).1 scan)
    exact absurd stop (goes_on i).1

/-- A host that does not have a byte ready at every moment to come has none at some activation. -/
theorem State.NotEndlesslyReady.exists_none {s : State} (h : s.NotEndlesslyReady) :
    ∃ m, (State.activateKeyboard^[m] s).upcoming = [] ∨ ∃ rest, (State.activateKeyboard^[m] s).upcoming = .pause :: rest := by
  have used_up := State.iterate_listed (List.append_nil s.inq).symm
  rcases h with silent | pauses
  · exact ⟨s.inq.length, .inl (by rw [used_up]; exact silent)⟩
  · obtain ⟨l, r, hcycle⟩ := List.append_of_mem pauses
    cases l with
    | nil => exact ⟨s.inq.length, .inr ⟨r, by rw [used_up]; exact hcycle⟩⟩
    | cons e l =>
      have round : s.inEnd.round = (e :: l) ++ .pause :: r := by
        rw [InputEnd.round, if_neg (by rw [hcycle]; exact nofun), hcycle]
      refine ⟨(e :: l).length + s.inq.length, .inr ⟨r, ?_⟩⟩
      rw [Function.iterate_add_apply, used_up, List.length_cons, State.iterate_unlisted rfl, ← List.length_cons,
        State.iterate_listed round]
      rfl

section
variable {s : State} (hkb : s.DefaultKeyboard) (hwf : Mem.wf s.mem = true) (p : Word)
include hkb

/-- On the default platform a scan that goes on long enough reads the status cell right after any activation. -/
theorem State.exists_status_read (m : Nat) :
    ∃ i, s.cellRead p i = Mem.read (State.activateKeyboard^[m] s).activateKeyboard.mem s.cfg.kbsrAddr := by
  have at_status : (s.deviceAt s.cfg.kbsrAddr).isSome := by rw [hkb.deviceAt, if_pos rfl]; rfl
  obtain ⟨i, rfl, visit⟩ := State.exists_visit at_status p m
  have is_status : p + BitVec.ofNat 16 i = s.cfg.kbsrAddr := by
    by_contra other
    rw [hkb.deviceAt, if_neg other] at visit
    cases visit
  exact ⟨i, by rw [State.cellRead_device visit, is_status]⟩

include hwf

/-- A scan meets a zero at the status cell unless the host has a byte ready at every moment to come (R74). -/
theorem State.NotEndlesslyReady.exists_zero_read (h : s.NotEndlesslyReady) : ∃ i, s.cellRead p i = 0 := by
  obtain ⟨m, none_ready⟩ := h.exists_none
  obtain ⟨i, read_status⟩ := State.exists_status_read hkb p m
  obtain ⟨hcfg, -, hiter⟩ := s.iterate_frame m
  refine ⟨i, ?_⟩
  rw [read_status, State.activateKeyboard_mem_of_none none_ready, hcfg, Mem.read_write_same _ _ _ (hiter hwf), hkb.2]

/-- A scan meets a zero low byte at the status cell if both status words have one (decision D6). -/
theorem State.exists_zero_low_read (hlow : lowByte s.cfg.kbReady = 0) (hsep : s.cfg.kbsrAddr ≠ s.cfg.kbdrAddr) :
    ∃ i, lowByte (s.cellRead p i) = 0 := by
  obtain ⟨i, read_status⟩ := State.exists_status_read hkb p 0
  obtain ⟨with_byte, without_byte, -⟩ := keyboardActivation s hwf hsep
  refine ⟨i, ?_⟩
  rw [read_status, Function.iterate_zero_apply]
  rcases hnext : s.upcoming with _ | ⟨_ | _, rest⟩
  · obtain ⟨-, status, -⟩ := without_byte (.inl hnext)
    rw [State.activate, hkb.2] at status
    rw [status]; rfl
  · obtain ⟨-, status, -⟩ := with_byte _ rest hnext
    rw [State.activate] at status
    rw [status, hlow]
  · obtain ⟨-, status, -⟩ := without_byte (.inr ⟨rest, hnext⟩)
    rw [State.activate, hkb.2] at status
    rw [status]; rfl

end

/-- A TRAP completes if the scan it may run does. -/
theorem trapService_completes {v : BitVec 8} {s : State} (hputs : v = 0x22 → ∃ t, servicePuts s = .next t)
    (hputsp : v = 0x24 → ∃ t, servicePutsp s = .next t) : ∃ t, trapService v s = .next t := by
  rcases trapService_cases v s with ⟨_, e⟩ | ⟨_, e⟩ | ⟨hv, e⟩ | ⟨_, e⟩ | ⟨hv, e⟩ | ⟨_, e⟩ | ⟨_, e⟩ <;> rw [e]
  case inr.inr.inl => exact hputs hv
  case inr.inr.inr.inr.inl => exact hputsp hv
  all_goals exact ⟨_, rfl⟩

/-- An instruction completes if the scan it may run does. -/
theorem exec_completes {i : Instr} {s : State} (hputs : i = .puts ∨ i = .trap 0x22 → ∃ t, servicePuts s.link = .next t)
    (hputsp : i = .putsp ∨ i = .trap 0x24 → ∃ t, servicePutsp s.link = .next t) : ∃ t, exec i s = .next t := by
  cases i with
  | puts => exact hputs (.inl rfl)
  | putsp => exact hputsp (.inl rfl)
  | trap v => exact trapService_completes (fun hv => hputs (.inr (by rw [hv]))) (fun hv => hputsp (.inr (by rw [hv])))
  | res low12 =>
    rw [exec, execRes]
    cases s.cfg.unsupportedPolicy with
    | fatal => exact ⟨_, rfl⟩
    | ignore => exact ⟨_, rfl⟩
  | _ => exact ⟨_, rfl⟩

/-- Settles O44: only the two scans could fail to complete, and each meets its terminator at the status cell. -/
theorem everyInstructionCompletesOnTheDefaultPlatform : Obligations.EveryInstructionCompletesOnTheDefaultPlatform := by
  intro i s hwf hkb hcond
  have linked_kb : s.link.DefaultKeyboard := hkb
  rcases hcond with ready | no_scan | ⟨is_putsp, hlow, hsep⟩
  · have linked_ready : s.link.NotEndlesslyReady := ready
    obtain ⟨j, zero⟩ := linked_ready.exists_zero_read linked_kb hwf (s.link.reg 0)
    exact exec_completes (fun _ => servicePuts_completes hwf ⟨j, zero⟩)
      (fun _ => servicePutsp_completes hwf ⟨j, by rw [zero]; rfl⟩)
  · exact exec_completes (fun h => absurd (by rcases h with rfl | rfl <;> simp) no_scan)
      (fun h => absurd (by rcases h with rfl | rfl <;> simp) no_scan)
  · refine exec_completes (fun h => ?_)
      (fun _ => servicePutsp_completes hwf (State.exists_zero_low_read linked_kb hwf _ hlow hsep))
    rcases h with rfl | rfl <;> simp at is_putsp

end Sys2Proof.Machine
end

section
/-! The wait inside GETC and IN, and the errors' codes (60_exceptions.md R252, R271). -/

namespace Sys2Proof.Machine

/-- Settles O59: the codes are R252's table. -/
theorem errorCodes : Obligations.ErrorCodes :=
  ⟨rfl, fun _ _ _ => rfl, fun _ _ => rfl, fun _ _ => rfl⟩

/-- A waiting core tries its blocking read again (R271). -/
theorem step_of_waiting {s : State} {svc : InputService} (h : s.run = .waiting svc) :
    step s = .next (s.resumeInput svc) := by
  simp only [step, h]

/-- A resumed read without a byte sets the run state and nothing else. -/
theorem State.SuppliesNone.resumeInput {s : State} (h : s.SuppliesNone) (svc : InputService) :
    s.resumeInput svc = { s with run :=
      if s.inEnd = .closed then .halted (some (.inputExhausted svc.vector (s.pc - 1))) else .waiting svc } :=
  State.SuppliesNone.trapInput (s := { s with run := .running }) h svc

/-- Settles O33: without a byte only the run state can change, to the error's or to the wait it is already in; with one
the read completes in the running core as R213 says. -/
theorem inputWait : Obligations.InputWait := by
  intro s svc hrun
  rw [step_of_waiting hrun]
  refine ⟨fun hnone hopen => ?still_open, fun hnone hclosed => ?closed, fun c rest hbyte => ?byte⟩
  case still_open => rw [hnone.resumeInput, if_neg hopen, ← hrun]
  case closed => rw [hnone.resumeInput, if_pos hclosed]; rfl
  case byte =>
    have supplied : { s with run := .running }.SuppliesByte c rest := hbyte
    obtain ⟨hreg, hcond, hinq, houtq, running⟩ := supplied.trapInput svc
    obtain ⟨hpc, hmem, himage, hcfg, ⟨hend, -⟩, other_registers⟩ := State.trapInput_frame { s with run := .running } svc
    have echoed : (s.resumeInput svc).outq = s.outq ++ (if svc = .inp then [c] else []) :=
      houtq.trans (by cases svc <;> rfl)
    exact ⟨_, rfl, running, hreg, other_registers, hpc, hcond, hinq, echoed, fun b => congrArg (Mem.read · b) hmem, hend,
      himage, hcfg⟩

end Sys2Proof.Machine
end

section
/-! What an instruction can do to the run state: the causes of an error and of an end without one (60_exceptions.md R252,
R253; 40_cycle.md R146). -/

namespace Sys2Proof.Machine

/-- What a blocking read can do to the run state: complete, exhaust a closed stream, or wait (R213, R271). -/
theorem State.trapInput_run_cases (s : State) (svc : InputService) :
    (s.trapInput svc).run = s.run ∨
    s.inEnd = .closed ∧ (s.trapInput svc).run = .halted (some (.inputExhausted svc.vector s.instrAddr)) ∨
    (s.trapInput svc).run = .waiting svc := by
  rcases s.trapInput_cases svc with ⟨c, rest, _, h⟩ | ⟨_, closed, h⟩ | ⟨_, _, h⟩ <;> rw [h]
  · obtain ⟨_, _, hrun, _⟩ := State.inputDone_frame { s with inq := rest } c svc
    exact .inl hrun
  · exact .inr (.inl ⟨closed, rfl⟩)
  · exact .inr (.inr rfl)

/-- How the service of vector `v` can leave the run state, with the cause of each change. -/
inductive ServiceRun (v : BitVec 8) (s t : State) : Prop where
  | same (run : t.run = s.run)
  | exhausted (svc : InputService) (vector : v = svc.vector) (closed : s.inEnd = .closed)
      (run : t.run = .halted (some (.inputExhausted svc.vector s.instrAddr)))
  | waiting (svc : InputService) (run : t.run = .waiting svc)
  | halted (vector : v = 0x25) (run : t.run = .halted none)
  | unsupported (vector : supportedVector v = false) (policy : s.cfg.unsupportedPolicy = .fatal)
      (run : t.run = .halted (some (.unsupportedTrapVector v s.instrAddr)))

/-- GETC and IN leave the run state as their blocking read does; `u` is the state that read begins in, for IN past the
prompt. -/
theorem ServiceRun.of_trapInput {s u : State} (svc : InputService) (hrun : u.run = s.run) (hend : u.inEnd = s.inEnd)
    (hpc : u.pc = s.pc) : ServiceRun svc.vector s (u.trapInput svc) := by
  have same_addr : u.instrAddr = s.instrAddr := by rw [State.instrAddr, hpc, State.instrAddr]
  rcases u.trapInput_run_cases svc with run | ⟨closed, run⟩ | run
  · exact .same (run.trans hrun)
  · exact .exhausted svc rfl (hend.symm.trans closed) (same_addr ▸ run)
  · exact .waiting svc run

/-- Every service leaves the run state in one of these ways. -/
theorem trapService_run {v : BitVec 8} {s t : State} (h : trapService v s = .next t) : ServiceRun v s t := by
  rcases trapService_cases v s with ⟨rfl, e⟩ | ⟨_, e⟩ | ⟨_, e⟩ | ⟨rfl, e⟩ | ⟨_, e⟩ | ⟨hv, e⟩ | ⟨hv, e⟩ <;> rw [e] at h
  · cases h; exact .of_trapInput .getc rfl rfl rfl
  · cases h; exact .same rfl
  · exact .same (scanPuts_rel (scanOutcome_next.1 h)).run
  · cases h; exact .of_trapInput .inp rfl rfl rfl
  · exact .same (scanPutsp_rel (scanOutcome_next.1 h)).run
  · cases h; exact .halted hv rfl
  · cases h
    rcases s.serviceUnsupported_cases v with ⟨policy, e⟩ | ⟨_, e⟩ <;> rw [e]
    · exact .unsupported hv policy rfl
    · exact .same rfl

/-- An instruction with a result leaves the run state. -/
theorem ExecEffect.run_of_result {dr : Reg} {s t : State} (h : ExecEffect s (.result dr) t) : t.run = s.run := by
  cases h with
  | write reads => exact reads.run

/-- RES ends in its error under FATAL and does nothing under IGNORE (44_trap_system.md R222). -/
theorem execRes_cases {low12 : BitVec 12} {s t : State} (h : execRes low12 s = .next t) :
    t = s ∨ s.cfg.unsupportedPolicy = .fatal ∧
      t = s.raiseFatal (.unsupportedOpcode 0xD (0xD#4 ++ low12) s.instrAddr) := by
  unfold execRes at h
  split at h
  · next policy => cases h; exact .inr ⟨policy, rfl⟩
  · cases h; exact .inl rfl

/-- An instruction leaves the run state, is RES ending in its error, or runs a service. -/
theorem exec_run_cases {i : Instr} {s t : State} (h : exec i s = .next t) :
    t.run = s.run ∨
    (∃ low12, i = .res low12 ∧ s.cfg.unsupportedPolicy = .fatal ∧
      t = s.raiseFatal (.unsupportedOpcode 0xD (0xD#4 ++ low12) s.instrAddr)) ∨
    ∃ v, classOf i = .service v ∧ trapService v s.link = .next t := by
  cases i with
  | trap | getc | out | puts | inp | putsp | halt => exact .inr (.inr ⟨_, rfl, h⟩)
  | res low12 =>
    rcases execRes_cases h with rfl | ⟨policy, e⟩
    · exact .inl rfl
    · exact .inr (.inl ⟨low12, rfl, policy, e⟩)
  | add | addImm | and | andImm | not | ld | ldi | ldr | lea => exact .inl (exec_effect h).run_of_result
  | br mask off9 => cases h; rw [s.branch_eq_setPc]; exact .inl rfl
  | nop => cases h; exact .inl (congrArg State.run (s.branch_mask_zero 0))
  | jsrr base => cases (execJsrr_eq base s).symm.trans h; exact .inl rfl
  | sti => cases h; exact .inl (s.afterRead_run _)
  | jmp | ret | jsr | st | str | rti => cases h; exact .inl rfl

/-- The instructions that run the service of a vector: TRAP with it, and the vector's own name where it has one
(30_encoding.md R113, R121). -/
theorem eq_trap_or_alias_of_service {i : Instr} {v : BitVec 8} (h : classOf i = .service v) :
    i = .trap v ∨ supportedVector v = true ∧ i = decodeTrap v := by
  cases i with
  | trap => cases h; exact .inl rfl
  | getc | out | puts | inp | putsp | halt => cases h; exact .inr ⟨rfl, rfl⟩
  | _ => cases h

/-- An error a service ends in was there before, or is GETC's or IN's on a closed stream, or an unsupported vector's. -/
theorem ServiceRun.error_cause {v : BitVec 8} {s t : State} {e : FatalErr} (h : ServiceRun v s t)
    (ended : t.run = .halted (some e)) :
    s.run = .halted (some e) ∨ (s.inEnd = .closed ∧ ∃ svc : InputService, v = svc.vector) ∨
    s.cfg.unsupportedPolicy = .fatal ∧ supportedVector v = false := by
  cases h with
  | same run => exact .inl (run.symm.trans ended)
  | exhausted svc vector closed => exact .inr (.inl ⟨closed, svc, vector⟩)
  | unsupported vector policy => exact .inr (.inr ⟨policy, vector⟩)
  | waiting _ run | halted _ run => cases run.symm.trans ended

/-- An end without an error was there before, or is HALT's. -/
theorem ServiceRun.halt_cause {v : BitVec 8} {s t : State} (h : ServiceRun v s t) (ended : t.run = .halted none) :
    s.run = .halted none ∨ v = 0x25 := by
  cases h with
  | same run => exact .inl (run.symm.trans ended)
  | halted vector => exact .inr vector
  | waiting _ run | exhausted _ _ _ run | unsupported _ _ run => cases run.symm.trans ended

/-- A blocking service runs under GETC's, IN's or their vectors' names. -/
theorem mem_input_instrs_of_service {i : Instr} {svc : InputService} (h : classOf i = .service svc.vector) :
    i ∈ [.getc, .inp, .trap 0x20, .trap 0x23] := by
  cases svc with
  | getc | inp => rcases eq_trap_or_alias_of_service h with rfl | ⟨_, rfl⟩ <;> decide

/-- The causes of an error, for any instruction (R252). -/
theorem exec_error_cause {i : Instr} {s t : State} {e : FatalErr} (h : exec i s = .next t)
    (ended : t.run = .halted (some e)) :
    s.run = .halted (some e) ∨
    (s.cfg.unsupportedPolicy = .fatal ∧ ((∃ low12, i = .res low12) ∨ ∃ v, i = .trap v ∧ supportedVector v = false)) ∨
    (s.inEnd = .closed ∧ i ∈ [.getc, .inp, .trap 0x20, .trap 0x23]) := by
  rcases exec_run_cases h with same | ⟨low12, is_res, policy, _⟩ | ⟨v, serves, runs⟩
  · exact .inl (same.symm.trans ended)
  · exact .inr (.inl ⟨policy, .inl ⟨low12, is_res⟩⟩)
  · rcases (trapService_run runs).error_cause ended with before | ⟨closed, svc, rfl⟩ | ⟨policy, unsupported⟩
    · exact .inl before
    · exact .inr (.inr ⟨closed, mem_input_instrs_of_service serves⟩)
    · have is_trap : i = .trap v := (eq_trap_or_alias_of_service serves).resolve_right fun ⟨supported, _⟩ =>
        nomatch unsupported.symm.trans supported
      exact .inr (.inl ⟨policy, .inr ⟨v, is_trap, unsupported⟩⟩)

/-- The cause of an end without an error, for any instruction (R146). -/
theorem exec_halt_cause {i : Instr} {s t : State} (h : exec i s = .next t) (ended : t.run = .halted none) :
    s.run = .halted none ∨ i ∈ [.halt, .trap 0x25] := by
  rcases exec_run_cases h with same | ⟨_, _, _, rfl⟩ | ⟨v, serves, runs⟩
  · exact .inl (same.symm.trans ended)
  · cases ended
  · rcases (trapService_run runs).halt_cause ended with before | rfl
    · exact .inl before
    · rcases eq_trap_or_alias_of_service serves with rfl | ⟨_, rfl⟩ <;> exact .inr (by decide)

/-- Settles O42: the first clause excludes that the error was there before, the second that the core was halted before. -/
theorem onlyTheseCausesEndARun : Obligations.OnlyTheseCausesEndARun := by
  intro i s t h
  refine ⟨fun safe failed => ?_, fun running ended => ?_⟩
  · obtain ⟨e, ended⟩ : ∃ e, t.run = .halted (some e) := by simpa [State.Safe] using failed
    exact (exec_error_cause h ended).resolve_left (safe e)
  · exact (exec_halt_cause h ended).resolve_left fun halted => nomatch running.symm.trans halted

end Sys2Proof.Machine
end

section
/-! The invariant: canonical memory, and a run state that fits pc and R7 (60_exceptions.md R252, R254; 44_trap_system.md
R210; 20_memory.md R60). -/

namespace Sys2Proof.Machine

/-- What the invariant asks of each run state. -/
theorem State.runLegal_of_running {s : State} (h : s.run = .running) : s.runLegal := by
  rw [State.runLegal, h]; trivial

theorem State.runLegal_of_waiting {s : State} {svc : InputService} (h : s.run = .waiting svc) (linked : s.reg 7 = s.pc) :
    s.runLegal := by
  rw [State.runLegal, h]; exact linked

theorem State.runLegal_of_halted {s : State} (h : s.run = .halted none) (linked : s.reg 7 = s.pc) : s.runLegal := by
  rw [State.runLegal, h]; exact linked

theorem State.runLegal_of_error {s : State} {e : FatalErr} (h : s.run = .halted (some e)) (fits : e.matchesPc s.pc) :
    s.runLegal := by
  rw [State.runLegal, h]; exact fits

/-- While waiting R7 holds `pc'`. -/
theorem State.linked_of_waiting {s : State} {svc : InputService} (legal : s.runLegal) (h : s.run = .waiting svc) :
    s.reg 7 = s.pc := by
  rw [State.runLegal, h] at legal; exact legal

/-- The address a record holds is the one before `pc'` (R252). -/
theorem State.instrAddr_add_one (s : State) : s.instrAddr + 1 = s.pc := BitVec.sub_add_cancel _ _

/-- An exhausted input's record fits the blocking service that raised it. -/
theorem inputExhausted_matchesPc (svc : InputService) (s : State) :
    (FatalErr.inputExhausted svc.vector s.instrAddr).matchesPc s.pc := by
  refine ⟨?_, s.instrAddr_add_one⟩
  cases svc with
  | getc => exact .inl rfl
  | inp => exact .inr rfl

/-- The record of RES fits: the opcode heads the word. -/
theorem unsupportedOpcode_matchesPc (low12 : BitVec 12) (s : State) :
    (FatalErr.unsupportedOpcode 0xD (0xD#4 ++ low12) s.instrAddr).matchesPc s.pc :=
  ⟨rfl, BitVec.extractLsb'_append_eq_left, s.instrAddr_add_one⟩

/-- A service that began in a running core, with the link written, leaves a legal run state. -/
theorem ServiceRun.runLegal {v : BitVec 8} {s t : State} (h : ServiceRun v s t) (running : s.run = .running)
    (hpc : t.pc = s.pc) (linked : t.reg 7 = t.pc) : t.runLegal := by
  cases h with
  | same run => exact t.runLegal_of_running (run.trans running)
  | exhausted svc _ _ run => exact t.runLegal_of_error run (hpc ▸ inputExhausted_matchesPc svc s)
  | waiting svc run => exact t.runLegal_of_waiting run linked
  | halted _ run => exact t.runLegal_of_halted run linked
  | unsupported vector _ run => exact t.runLegal_of_error run ⟨vector, hpc ▸ s.instrAddr_add_one⟩

/-- Every instruction executed in a running core leaves a legal run state. -/
theorem exec_runLegal {i : Instr} {s t : State} (h : exec i s = .next t) (running : s.run = .running) : t.runLegal := by
  rcases exec_run_cases h with same | ⟨low12, _, _, rfl⟩ | ⟨v, _, runs⟩
  · exact t.runLegal_of_running (same.trans running)
  · exact State.runLegal_of_error rfl (unsupportedOpcode_matchesPc low12 s)
  · obtain ⟨hpc, linked, _⟩ := servicesChangeOnlyTheirRow v s t runs
    exact (trapService_run runs).runLegal running hpc (linked.trans hpc.symm)

/-- A blocking read touches no memory. -/
theorem State.trapInput_wf (s : State) (svc : InputService) (h : Mem.wf s.mem = true) :
    Mem.wf (s.trapInput svc).mem = true := by
  obtain ⟨_, hmem, _⟩ := s.trapInput_frame svc
  rw [hmem]; exact h

/-- Every service keeps memory canonical. -/
theorem trapService_wf {v : BitVec 8} {s t : State} (h : trapService v s = .next t) (hwf : Mem.wf s.mem = true) :
    Mem.wf t.mem = true := by
  rcases trapService_cases v s with ⟨_, e⟩ | ⟨_, e⟩ | ⟨_, e⟩ | ⟨_, e⟩ | ⟨_, e⟩ | ⟨_, e⟩ | ⟨_, e⟩ <;> rw [e] at h
  · cases h; exact s.trapInput_wf .getc hwf
  · cases h; exact hwf
  · exact (scanPuts_rel (scanOutcome_next.1 h)).wf hwf
  · cases h; exact (s.outAll s.cfg.inPrompt).trapInput_wf .inp hwf
  · exact (scanPutsp_rel (scanOutcome_next.1 h)).wf hwf
  · cases h; exact hwf
  · cases h; rw [State.serviceUnsupported_eq]; exact hwf

/-- Every instruction keeps memory canonical: its reads, its store and its service do. -/
theorem ExecEffect.wf {c : InstrClass} {s t : State} (h : ExecEffect s c t) (hwf : Mem.wf s.mem = true) :
    Mem.wf t.mem = true := by
  cases h with
  | write reads => exact reads.wf hwf
  | store reads => exact Mem.wf_write _ _ _ (reads.wf hwf)
  | jump | call | stay | fatal => exact hwf
  | trap runs => exact trapService_wf runs hwf

/-- Completing or continuing a wait keeps the invariant: the blocking read touches neither memory, nor pc, nor R7. -/
theorem State.Inv.resumeInput {s : State} {svc : InputService} (h : s.Inv) (hrun : s.run = .waiting svc) :
    (s.resumeInput svc).Inv := by
  obtain ⟨hwf, legal⟩ := h
  obtain ⟨hpc, _, _, _, _, hregs⟩ := State.trapInput_frame { s with run := .running } svc
  have linked : (s.resumeInput svc).reg 7 = (s.resumeInput svc).pc :=
    (hregs 7 (by decide)).trans ((State.linked_of_waiting legal hrun).trans hpc.symm)
  have read_again : ServiceRun svc.vector { s with run := .running } (s.resumeInput svc) := .of_trapInput svc rfl rfl rfl
  exact ⟨State.trapInput_wf _ svc hwf, read_again.runLegal rfl hpc linked⟩

/-- Boot keeps the invariant: the loader keeps memory canonical, and the core is running. -/
theorem bootStep_inv {s t : State} (h : bootStep s = .next t) (hwf : Mem.wf s.mem = true) : t.Inv := by
  obtain ⟨_, _, _, _, loads, rfl⟩ := bootStep_next h
  exact ⟨Mem.wf_loadImage loads hwf, State.runLegal_of_running rfl⟩

/-- Settles O52: a step fetches and executes, completes or continues a wait, or boots, and each keeps the invariant. -/
theorem stepKeepsTheInvariant : Obligations.StepKeepsTheInvariant := by
  intro s t hinv h
  have ⟨hwf, _⟩ := hinv
  rcases step_cases h with ⟨running, hexec⟩ | ⟨svc, waiting, rfl⟩ | ⟨_, hboot⟩
  · have fetched_running : s.fetch.2.run = .running := s.fetch_rel.run.trans running
    exact ⟨(exec_effect hexec).wf (s.fetch_rel.wf hwf), exec_runLegal hexec fetched_running⟩
  · exact hinv.resumeInput waiting
  · exact bootStep_inv hboot hwf

end Sys2Proof.Machine
end

section
/-! Construction, for every value of the parameters, and reset, which is construction with the defaults
(70_reset_and_hazards.md R280; 20_memory.md R60). -/

namespace Sys2Proof.Machine

/-- No cell is listed at construction, so every cell holds zero (20_memory.md R60). -/
theorem State.read_construct (cfg : Config) (a : Word) : Mem.read (State.construct cfg).mem a = 0 := rfl

/-- The registers start at `GPR_INIT` (10_state.md R35). -/
theorem State.reg_construct (cfg : Config) (r : Reg) : (State.construct cfg).reg r = cfg.gprInit[r.val] := rfl

/-- The default `GPR_INIT` is zero for each register (decision D7). -/
theorem gprInit_standard (r : Reg) : Config.standard.gprInit[r.val] = 0 := Vector.getElem_replicate r.isLt

/-- Before boot the run state asks nothing of pc and R7. -/
theorem State.runLegal_of_constructed {s : State} (h : s.run = .constructed) : s.runLegal := by
  rw [State.runLegal, h]; trivial

/-- The invariant holds at construction under every parameter value: the empty list of cells is canonical. -/
theorem State.inv_construct (cfg : Config) : (State.construct cfg).Inv :=
  ⟨rfl, State.runLegal_of_constructed rfl⟩

/-- Settles O50: memory and registers by what construction gives them, the other fields as `State.construct` and the
default parameters name them. -/
theorem resetState : Obligations.ResetState := by
  have registers_zero (q : Reg) : State.reset.reg q = 0 :=
    (State.reg_construct Config.standard q).trans (gprInit_standard q)
  exact ⟨State.read_construct Config.standard, rfl, rfl, rfl, registers_zero, rfl, rfl, rfl, rfl⟩

/-- Settles O51: reset is a construction. -/
theorem resetIsLegal : Obligations.ResetIsLegal := State.inv_construct Config.standard

end Sys2Proof.Machine
end
